-- ==== Sys2Proof/Word.lean ====
section
/-!
DEFINITION. Word.lean: the widths of CRCFRAME (00_scope.md R5, R9, R10).
-/

namespace Sys2Proof

/-- An 8-bit value: a data byte, a unit address, a command code or an op byte (R5, R32). -/
abbrev Byte := BitVec 8

/-- A 16-bit value: the width of CRC, CID and their results (R5, R14). -/
abbrev Word := BitVec 16

/-- A byte sequence; byte 0 is the first byte on the wire (R10, R30). -/
abbrev Seq := List Byte

end Sys2Proof
end

