-- ==== Sys2Proof/Machine/Results.lean ====
section
/-!
DEFINITION. Machine/Results.lean: what an operation answers (30_encoding.md R41, 41_frame.md R87, 60_exceptions.md R93, R102).
-/

namespace Sys2Proof.Machine

/-- A 3-byte preamble (R5, R54). -/
structure Preamble where
  b0 : Byte
  b1 : Byte
  b2 : Byte
  deriving DecidableEq, Repr

/-- The preamble as the bytes on the wire, byte 0 first. -/
def Preamble.toSeq (p : Preamble) : Seq := [p.b0, p.b1, p.b2]

/-- The record a successful decode returns (R87). `preamble` is `none` in P2P mode; `crc` is the received CRC. -/
structure Frame where
  preamble    : Option Preamble
  address     : Byte
  commandCode : Byte
  commandId   : Word
  payload     : Seq
  crc         : Word
  deriving DecidableEq, Repr

/-- The error statuses (R102). -/
inductive Error where
  | illegalOp
  | badAddress
  | payloadTooLong
  | truncated
  | crcMismatch
  | badSeparator
  | badPreamble
  deriving DecidableEq, Repr

/-- The value of a successful result, of the type its row in R43 gives. -/
inductive Value where
  | u16 (v : Word)
  | seq (s : Seq)
  | frame (f : Frame)
  deriving DecidableEq, Repr

/-- A result: status OK with the value its operation has, if any, or one error status and no value (R41, R93). -/
inductive Result where
  | ok (value : Option Value)
  | error (e : Error)
  deriving DecidableEq, Repr

end Sys2Proof.Machine
end

