-- ==== Sys2Proof/Machine/Constants.lean ====
section
/-!
DEFINITION. Machine/Constants.lean: the constants of CRCFRAME, each in one named definition (R5, R21, R54, R58, R102;
91_not_in_source.md N9: the source's numeric literals are unaudited, UNVERIFIED, log 15).
-/

namespace Sys2Proof.Machine

/-- The CRC polynomial (R5, R63). -/
def POLY : Word := 0x1021#16

/-- The CRC seed, also CRC's reset value (R5, R20, R63). -/
def SEED : Word := 0x1D0F#16

/-- The separator byte that opens the covered part of a frame (R5, R49). -/
def SEP : Byte := 0xAA#8

/-- CID's reset value, and what NEXT returns after 0xFFFF (R17, R20). -/
def firstCid : Word := 0x0001#16

/-- The bytes of an MD frame beside its payload (R53, R60). -/
def mdOverhead : Nat := 10

/-- The bytes of a P2P frame beside its payload (R53, R60). -/
def p2pOverhead : Nat := 7

/-- PRE, the preamble an address selects; `none` where R54 says "undefined". -/
def preamble (a : Byte) : Option Preamble :=
  if a.toNat = 0 then some ⟨0x00#8, 0xFF#8, 0x00#8⟩
  else if a.toNat ≤ 8 then some ⟨0x00#8, 0x10#8, 0xEF#8⟩
  else if a.toNat ≤ 16 then some ⟨0x00#8, 0x12#8, 0xED#8⟩
  else if a.toNat ≤ 24 then some ⟨0x00#8, 0x14#8, 0xEB#8⟩
  else if a.toNat ≤ 32 then some ⟨0x00#8, 0x16#8, 0xE9#8⟩
  else if a.toNat ≤ 40 then some ⟨0x00#8, 0x18#8, 0xE7#8⟩
  else none

/-- The number of each error status (R102). -/
def Error.code : Error → Byte
  | .illegalOp => 1#8
  | .badAddress => 2#8
  | .payloadTooLong => 3#8
  | .truncated => 4#8
  | .crcMismatch => 5#8
  | .badSeparator => 6#8
  | .badPreamble => 7#8

/-- The status byte of a result (R41, R102): 0 for OK. -/
def Result.status : Result → Byte
  | .ok _ => 0#8
  | .error e => e.code

/-- The value of a result, present only when its status is OK (R41). -/
def Result.value : Result → Option Value
  | .ok v => v
  | .error _ => none

/-- Command code of phase shifter set and of delay line set (R58). -/
def codePhaseShifterSetDelayLineSet : Byte := 0x02#8
/-- Command code of attenuator set (R58). -/
def codeAttenuatorSet : Byte := 0x09#8
/-- Command code of VIP (power) on/off (R58). -/
def codeVipOnOff : Byte := 0x0B#8
/-- Command code of PPM switch (R58). -/
def codePpmSwitch : Byte := 0x33#8
/-- Command code of beam-queue append (R58). -/
def codeBeamQueueAppend : Byte := 0x65#8
/-- Command code of task reset (R58). -/
def codeTaskReset : Byte := 0x66#8
/-- Command code of calibration/bench mode (R58). -/
def codeCalibrationBenchMode : Byte := 0xC9#8
/-- Command code of beam-calibration mode (R58). -/
def codeBeamCalibrationMode : Byte := 0xD9#8
/-- Command code of the point-to-point telemetry request (R58). -/
def codeTelemetryRequestP2p : Byte := 0xFA#8
/-- Command code of the telemetry request or status-probe variant (R58, C9). -/
def codeTelemetryRequestStatusProbeVariant : Byte := 0xFB#8

end Sys2Proof.Machine
end

