-- ==== Sys2Proof/Syntax.lean ====
section
/-!
DEFINITION. Syntax.lean: the instructions, one constructor per row of opcode_table.json, and the events by which a host
asks for them (30_encoding.md R39, R40, R43, R58).
-/

namespace Sys2Proof

/-- The two addressing modes (R12): multi-drop and point-to-point. -/
inductive Mode where
  | md
  | p2p
  deriving DecidableEq, Repr

/-- The ten operations of R43, by name: what an op byte selects. -/
inductive OpCode where
  | crcInit
  | crcUpdate
  | crcRead
  | crcCompute
  | preSel
  | cidRead
  | encMd
  | encP2p
  | decMd
  | decP2p
  deriving DecidableEq, Repr

/-- The types a request's operand can have (R40). -/
inductive OperandKind where
  | u8
  | seq
  deriving DecidableEq, Repr

/-- One operand of a request, passed by value (R30, R40). A value outside its width cannot be written (R45). -/
inductive Operand where
  | u8 (v : Byte)
  | seq (s : Seq)
  deriving DecidableEq, Repr

/-- The type of an operand (R40). -/
def Operand.kind : Operand → OperandKind
  | .u8 _ => .u8
  | .seq _ => .seq

/-- What the host can do to the block between two operations. -/
inductive HostEvent where
  /-- A request: one op byte and its operands (R39, R40). Any byte and any operands can be written here;
  the decoder sorts them. -/
  | request (op : Byte) (operands : List Operand)
  /-- A frame command asked for by its command code (R58) in an addressing mode (R12): the same effect as the
  encode request of that mode with that code (R57; DESIGN CHOICE, log 5). -/
  | command (code : Byte) (mode : Mode) (address : Byte) (payload : Seq)
  /-- The reset event, which is no op byte (R107). -/
  | reset
  deriving DecidableEq, Repr

/-- The instructions: the ten host operations of R43, then the ten command codes of R58. A constructor of the second
group stands for the encoding of one frame that carries its code (log 4). -/
inductive Instr where
  /-- CRC_INIT (R68). -/
  | crcInit
  /-- CRC_UPDATE d (R69). -/
  | crcUpdate (d : Byte)
  /-- CRC_READ (R71). -/
  | crcRead
  /-- CRC_COMPUTE s (R72). -/
  | crcCompute (s : Seq)
  /-- PRE_SEL a (R79). -/
  | preSel (a : Byte)
  /-- CID_READ (R81). -/
  | cidRead
  /-- ENC_MD a, cmd, p (R82). -/
  | encMd (a cmd : Byte) (p : Seq)
  /-- ENC_P2P a, cmd, p (R83). -/
  | encP2p (a cmd : Byte) (p : Seq)
  /-- DEC_MD f (R85). -/
  | decMd (f : Seq)
  /-- DEC_P2P f (R86). -/
  | decP2p (f : Seq)
  /-- Command code 0x02, phase shifter set, also delay line set (R58). -/
  | phaseShifterSetDelayLineSet (m : Mode) (a : Byte) (p : Seq)
  /-- Command code 0x09, attenuator set (R58). -/
  | attenuatorSet (m : Mode) (a : Byte) (p : Seq)
  /-- Command code 0x0B, VIP (power) on or off (R58). -/
  | vipOnOff (m : Mode) (a : Byte) (p : Seq)
  /-- Command code 0x33, PPM switch (R58). -/
  | ppmSwitch (m : Mode) (a : Byte) (p : Seq)
  /-- Command code 0x65, beam-queue append (R58). -/
  | beamQueueAppend (m : Mode) (a : Byte) (p : Seq)
  /-- Command code 0x66, task reset (R58). -/
  | taskReset (m : Mode) (a : Byte) (p : Seq)
  /-- Command code 0xC9, calibration/bench mode (R58). -/
  | calibrationBenchMode (m : Mode) (a : Byte) (p : Seq)
  /-- Command code 0xD9, beam-calibration mode (R58). -/
  | beamCalibrationMode (m : Mode) (a : Byte) (p : Seq)
  /-- Command code 0xFA, telemetry request of the point-to-point variant; the codec frames it in either mode (R57, R58). -/
  | telemetryRequestP2p (m : Mode) (a : Byte) (p : Seq)
  /-- Command code 0xFB, telemetry request or status-probe variant (R58, C9). -/
  | telemetryRequestStatusProbeVariant (m : Mode) (a : Byte) (p : Seq)
  deriving DecidableEq, Repr

/-- What the decoder finds in a host event. -/
inductive Decoded where
  /-- One instruction. -/
  | op (i : Instr)
  /-- The op byte is not in R43: the request raises ILLEGAL_OP (R46). -/
  | illegalOp
  /-- The op byte is in R43 and the operands do not match its row: not a request, refused (R45). -/
  | illTyped
  /-- The reset event (R107). -/
  | reset
  deriving DecidableEq, Repr

end Sys2Proof
end

