-- ==== Sys2Proof/WellFormed.lean ====
section
/-!
DEFINITION. WellFormed.lean: which host events are requests (R45) and which name an operation (R42, R43). Operands are
typed, so every term of Instr is well formed; what can be ill formed is a request: its op byte, the number of its
operands, the type of an operand.
-/

namespace Sys2Proof

/-- The operand list of each op byte, read off its two fields: `fam` is bits 7:4 and `mem` bits 3:0 (R42, R43). -/
def requestRow (op : Byte) : Option (List OperandKind) :=
  match (op.extractLsb' 4 4).toNat, (op.extractLsb' 0 4).toNat with
  | 0, 1 => some []
  | 0, 2 => some [.u8]
  | 0, 3 => some []
  | 0, 4 => some [.seq]
  | 1, 0 => some [.u8]
  | 1, 1 => some []
  | 2, 0 => some [.u8, .u8, .seq]
  | 2, 1 => some [.u8, .u8, .seq]
  | 3, 0 => some [.seq]
  | 3, 1 => some [.seq]
  | _, _ => none

/-- The event asks for an operation or for reset: a request's op byte is listed and its operands match its row. -/
def HostEvent.wellFormed : HostEvent → Bool
  | .request op operands => requestRow op == some (operands.map Operand.kind)
  | .command _ _ _ _ => true
  | .reset => true

/-- The event is one the block answers (R45, R46): a request is well formed or its op byte is illegal. -/
def HostEvent.answered : HostEvent → Bool
  | .request op operands => requestRow op == none || requestRow op == some (operands.map Operand.kind)
  | .command _ _ _ _ => true
  | .reset => true

end Sys2Proof
end

