-- ==== Sys2Proof/Decode.lean ====
section
/-!
DEFINITION. Decode.lean: from host events to instructions, total and rejecting by name (R39, R42, R43, R45, R46), the encoder
back, and the words of opcode_table.json (log 6, log 7).
-/

namespace Sys2Proof

open Sys2Proof.Machine

/-- The op bytes of R43, row by row. -/
def opTable : List (Byte × OpCode) :=
  [(0x01#8, .crcInit), (0x02#8, .crcUpdate), (0x03#8, .crcRead), (0x04#8, .crcCompute),
   (0x10#8, .preSel), (0x11#8, .cidRead),
   (0x20#8, .encMd), (0x21#8, .encP2p),
   (0x30#8, .decMd), (0x31#8, .decP2p)]

/-- The operation an op byte selects; none for an illegal one (R43, R46). -/
def opCodeOf (op : Byte) : Option OpCode := opTable.lookup op

/-- The `fam` field of an op byte, bits 7:4 (R42). -/
def opFam (op : Byte) : BitVec 4 := op.extractLsb' 4 4

/-- The `mem` field of an op byte, bits 3:0 (R42). -/
def opMem (op : Byte) : BitVec 4 := op.extractLsb' 0 4

/-- The instruction an operation makes of its operands, in the order of its row; none when they do not match it
(R40, R43, R45). -/
def withOperands : OpCode → List Operand → Option Instr
  | .crcInit, [] => some .crcInit
  | .crcUpdate, [.u8 d] => some (.crcUpdate d)
  | .crcRead, [] => some .crcRead
  | .crcCompute, [.seq s] => some (.crcCompute s)
  | .preSel, [.u8 a] => some (.preSel a)
  | .cidRead, [] => some .cidRead
  | .encMd, [.u8 a, .u8 cmd, .seq p] => some (.encMd a cmd p)
  | .encP2p, [.u8 a, .u8 cmd, .seq p] => some (.encP2p a cmd p)
  | .decMd, [.seq f] => some (.decMd f)
  | .decP2p, [.seq f] => some (.decP2p f)
  | _, _ => none

/-- The decoder of requests. The op byte is checked before anything else (R104): an illegal one is ILLEGAL_OP whatever
stands after it (log 8). -/
def decodeRequest (op : Byte) (operands : List Operand) : Decoded :=
  match opCodeOf op with
  | none => .illegalOp
  | some c =>
    match withOperands c operands with
    | none => .illTyped
    | some i => .op i

/-- The command codes of R58, row by row. -/
def commandTable : List (Byte × (Mode → Byte → Seq → Instr)) :=
  [(codePhaseShifterSetDelayLineSet, .phaseShifterSetDelayLineSet), (codeAttenuatorSet, .attenuatorSet),
   (codeVipOnOff, .vipOnOff), (codePpmSwitch, .ppmSwitch),
   (codeBeamQueueAppend, .beamQueueAppend), (codeTaskReset, .taskReset),
   (codeCalibrationBenchMode, .calibrationBenchMode), (codeBeamCalibrationMode, .beamCalibrationMode),
   (codeTelemetryRequestP2p, .telemetryRequestP2p),
   (codeTelemetryRequestStatusProbeVariant, .telemetryRequestStatusProbeVariant)]

/-- The plain encode operation of a mode (R44). -/
def encodeInMode : Mode → Byte → Byte → Seq → Instr
  | .md => .encMd
  | .p2p => .encP2p

/-- The decoder of frame commands: a code of R58 is its own instruction; any other is encoded like any other (R59). -/
def decodeCommand (code : Byte) (m : Mode) (a : Byte) (p : Seq) : Instr :=
  match commandTable.lookup code with
  | some c => c m a p
  | none => encodeInMode m a code p

/-- The decoder: what a host event asks for. -/
def decode : HostEvent → Decoded
  | .request op operands => decodeRequest op operands
  | .command code m a p => .op (decodeCommand code m a p)
  | .reset => .reset

/-- The encoder: the event that asks for an instruction, its op byte written from R43 or its command code from R58. -/
def encode : Instr → HostEvent
  | .crcInit => .request 0x01#8 []
  | .crcUpdate d => .request 0x02#8 [.u8 d]
  | .crcRead => .request 0x03#8 []
  | .crcCompute s => .request 0x04#8 [.seq s]
  | .preSel a => .request 0x10#8 [.u8 a]
  | .cidRead => .request 0x11#8 []
  | .encMd a cmd p => .request 0x20#8 [.u8 a, .u8 cmd, .seq p]
  | .encP2p a cmd p => .request 0x21#8 [.u8 a, .u8 cmd, .seq p]
  | .decMd f => .request 0x30#8 [.seq f]
  | .decP2p f => .request 0x31#8 [.seq f]
  | .phaseShifterSetDelayLineSet m a p => .command codePhaseShifterSetDelayLineSet m a p
  | .attenuatorSet m a p => .command codeAttenuatorSet m a p
  | .vipOnOff m a p => .command codeVipOnOff m a p
  | .ppmSwitch m a p => .command codePpmSwitch m a p
  | .beamQueueAppend m a p => .command codeBeamQueueAppend m a p
  | .taskReset m a p => .command codeTaskReset m a p
  | .calibrationBenchMode m a p => .command codeCalibrationBenchMode m a p
  | .beamCalibrationMode m a p => .command codeBeamCalibrationMode m a p
  | .telemetryRequestP2p m a p => .command codeTelemetryRequestP2p m a p
  | .telemetryRequestStatusProbeVariant m a p => .command codeTelemetryRequestStatusProbeVariant m a p

/-- Byte `k` of a number whose bit 0 is the least significant bit of byte 0, as opcode_table.json numbers bits. -/
def tableByte (w k : Nat) : Byte := BitVec.ofNat 8 (w >>> (8 * k))

/-- Bytes `k`, `k + 1`, … of a table word, `n` of them. -/
def tableBytes (w k : Nat) : Nat → Seq
  | 0 => []
  | n + 1 => tableByte w k :: tableBytes w (k + 1) n

/-- Typed operands filled from bytes: one byte for a u8, 0 where none is left, and every byte left for a seq (log 7). -/
def fillOperands : List OperandKind → Seq → List Operand
  | [], _ => []
  | .u8 :: ks, [] => .u8 0#8 :: fillOperands ks []
  | .u8 :: ks, b :: bs => .u8 b :: fillOperands ks bs
  | .seq :: ks, bs => .seq bs :: fillOperands ks []

/-- The host event a word of opcode_table.json stands for. Its first byte is an op byte where R43 lists it; else, where
R58 lists it, a command code, in mode MD, to the unit of the next byte, with the bytes left as payload; else it is an
illegal op byte. The two formats share byte 0x02, which is read as an op byte (log 6). -/
def tableEvent (nbits w : Nat) : HostEvent :=
  let op := tableByte w 0
  let rest := tableBytes w 1 (nbits / 8 - 1)
  match requestRow op with
  | some ks => .request op (fillOperands ks rest)
  | none =>
    match commandTable.lookup op with
    | some _ => .command op .md (rest.headD 0#8) rest.tail
    | none => .request op []

/-- The instruction the decoder reads from a word of opcode_table.json. -/
def decodeTableWord (nbits w : Nat) : Option Instr :=
  match decode (tableEvent nbits w) with
  | .op i => some i
  | .illegalOp => none
  | .illTyped => none
  | .reset => none

end Sys2Proof
end

