-- ==== Sys2Proof/Config.lean ====
section
/-!
DEFINITION. Config.lean: what an instance fixes and the spec leaves open (R6, R21, R108). The constants the
spec does give (POLY, SEED, SEP, the preamble table, the command codes) stand in Machine/Constants.lean.
-/

namespace Sys2Proof

/-- How far an instance's MAX_PAYLOAD lies above 99. Nothing in Lean can evaluate it, so a claim holds for every
value the spec allows (R6, D11; log 3). -/
opaque Config.payloadSlack : Nat

/-- MAX_PAYLOAD, the largest payload length in bytes that the codec accepts: an open parameter that is at least 99 (R6). -/
def Config.maxPayload : Nat := Config.payloadSlack + 99

/-- What CRC holds before the first reset: a draw (R108; log 11). -/
opaque Config.powerOnCrc : Word

/-- What CID holds before the first reset: a draw, 0x0000 among its possible values (R108; log 11). -/
opaque Config.powerOnCid : Word

end Sys2Proof
end

