-- ==== Sys2Proof/Machine/State.lean ====
section
/-!
DEFINITION. Machine/State.lean: the two registers of CRCFRAME (10_state.md R14), and the host's side of the interface: the
events still to be served and the results received (R8, R35, R117; log 1).
-/

namespace Sys2Proof.Machine

/-- The state. -/
structure State where
  /-- CRC, the running CRC register (R15). -/
  crc : Word
  /-- CID, the command-id counter: the id of the next successful ENC_MD (R16). -/
  cid : Word
  /-- What the host has still to issue, oldest first (the model's own field, log 1). -/
  pending : List HostEvent
  /-- The results the host has received, oldest first (R117; the model's own field, log 1). -/
  results : List Result
  deriving DecidableEq, Repr

/-- The faults: none. No operation of CRCFRAME stops the machine, since an error is a status returned to the host
(R93, R94; log 14). -/
inductive Fault where
  deriving DecidableEq, Repr

/-- The refusals. -/
inductive Refusal where
  /-- Raised by an arm of exec that has no meaning yet. Safe: nothing is claimed of a refused step. -/
  | notModelled (mnemonic : String)
  /-- Raised by step when the operands of a request do not match its op's row: it is not a request, and R45 has a model
  refuse it at its decoder. Safe: nothing is claimed of a refused step (log 9). -/
  | illTypedRequest
  deriving DecidableEq, Repr

/-- The machine right after reset (R20, R107): CRC = SEED, CID = 1, nothing pending and nothing received. -/
def State.reset : State := { crc := SEED, cid := firstCid, pending := [], results := [] }

/-- The machine before its first reset: CRC and CID are draws (R108; log 11). -/
def State.powerOn : State := { crc := Config.powerOnCrc, cid := Config.powerOnCid, pending := [], results := [] }

end Sys2Proof.Machine
end

