-- ==== Sys2Proof/Machine/Operands.lean ====
section
/-!
DEFINITION. Machine/Operands.lean: reading byte sequences (00_scope.md R10) and checking operands (41_frame.md R77). CRCFRAME has no
flags and no memory operands.
-/

namespace Sys2Proof.Machine

/-- `s[i]`; every use of it lies behind a length check. -/
def byteAt (s : Seq) (i : Nat) : Byte := s.getD i 0#8

/-- `s[i..j]`: bytes i to j inclusive, empty when j < i (R10). -/
def slice (s : Seq) (i j : Nat) : Seq := (s.drop i).take (j + 1 - i)

/-- Bit k of a byte sequence in the order the CRC takes its bits: byte 0 first, and bit 7 of each byte first (R29). -/
def bitAt (s : Seq) (k : Nat) : Bool := (byteAt s (k / 8)).getLsbD (7 - k % 8)

/-- `BE16(v)`: most significant byte first (R10, R28). -/
def be16 (v : Word) : Seq := [v.extractLsb' 8 8, v.extractLsb' 0 8]

/-- `FROMBE16(s, i)`: byte i above byte i + 1 (R10, R51). -/
def fromBe16 (s : Seq) (i : Nat) : Word := byteAt s i ++ byteAt s (i + 1)

/-- The three bytes `f[0..2]` (R49). -/
def preambleOf (f : Seq) : Preamble := ⟨byteAt f 0, byteAt f 1, byteAt f 2⟩

/-- `VALID_MD(a)`: PRE(a) is defined (R56, R77). -/
def validMd (a : Byte) : Bool := (preamble a).isSome

/-- `LEN_OK(p)`: the payload is no longer than MAX_PAYLOAD (R6, R77). -/
def lenOk (p : Seq) : Bool := decide (p.length ≤ Config.maxPayload)

end Sys2Proof.Machine
end

