-- ==== Sys2Proof/Machine/Ops.lean ====
section
/-!
DEFINITION. Machine/Ops.lean: the operations the meanings share: the CRC steps (40_crc.md R65 to R67), the counter (10_state.md R17), the frame
builders (41_frame.md R78, R80), and the ways a step can end (60_exceptions.md R93, R94; 70_reset_and_hazards.md R107).
-/

namespace Sys2Proof.Machine

/-- How an operation or a step ends. -/
abbrev Out := Host.Outcome State Fault Refusal

/-! The CRC (R65 to R67). -/

/-- CRC_BIT (R65): shift left by 1, and XOR POLY in when the top bit differs from the data bit. -/
def crcBit (c : Word) (b : Bool) : Word :=
  if c.getLsbD 15 ^^ b then (c <<< 1) ^^^ POLY else c <<< 1

/-- CRC_BYTE (R66): the bits of d in the order d[7], …, d[0]. -/
def crcByte (c : Word) (d : Byte) : Word :=
  [7, 6, 5, 4, 3, 2, 1, 0].foldl (fun c i => crcBit c (d.getLsbD i)) c

/-- The loop of R67 run from c in place of SEED (R70). -/
def crcFrom (c : Word) (s : Seq) : Word := s.foldl crcByte c

/-- crc16 (R67). It touches no register. -/
def crc16 (s : Seq) : Word := crcFrom SEED s

/-- The table entry T[i] of R66. -/
def crcTable (i : Byte) : Word := crcByte (i.setWidth 16 <<< 8) 0#8

/-- The table-driven byte step of R66; Obligations.TableStepEqualsBitSteps says it is CRC_BYTE. -/
def crcByteByTable (c : Word) (d : Byte) : Word := (c <<< 8) ^^^ crcTable (c.extractLsb' 8 8 ^^^ d)

/-! The counter (R17). -/

/-- NEXT (R17; 90_conflicts.md C1). -/
def nextCid (v : Word) : Word := if v = 0xFFFF#16 then firstCid else v + 1#16

/-! The frames (R49, R50, R52). -/

/-- COVER (R52): the bytes the CRC is computed over. -/
def cover (a cmd : Byte) (id : Word) (p : Seq) : Seq := [SEP, a, cmd] ++ be16 id ++ p

/-- BODY (R78): the covered bytes, then their CRC. -/
def body (a cmd : Byte) (id : Word) (p : Seq) : Seq :=
  cover a cmd id p ++ be16 (crc16 (cover a cmd id p))

/-- FRAME_MD (R80): the preamble is put before the covered bytes and their CRC, and is not covered. -/
def frameMd (pre : Preamble) (a cmd : Byte) (id : Word) (p : Seq) : Seq := pre.toSeq ++ body a cmd id p

/-- FRAME_P2P (R80): no preamble, and command id 0. -/
def frameP2p (a cmd : Byte) (p : Seq) : Seq := body a cmd 0x0000#16 p

/-! How an operation ends (R41, R93). -/

/-- `CRC <- v` (R11). -/
def State.setCrc (s : State) (v : Word) : State := { s with crc := v }

/-- `CID <- v` (R11). -/
def State.setCid (s : State) (v : Word) : State := { s with cid := v }

/-- The host receives one more result (R8, R117). -/
def State.receive (s : State) (r : Result) : State := { s with results := s.results ++ [r] }

/-- `return v`: status OK, with the operation's value if it has one (R11, R41). -/
def ret (v : Option Value) (s : State) : Out := .next (s.receive (.ok v))

/-- `raise E`: the error status and no value. It is called on the state the operation started from, so that no register is
written (R11, R94). -/
def raise (e : Error) (s : State) : Out := .next (s.receive (.error e))

/-! What a step does beside running an operation. -/

/-- The oldest event is taken from the host's list. -/
def State.withPending (s : State) (rest : List HostEvent) : State := { s with pending := rest }

/-- Nothing is pending: the block waits, unchanged (log 2). -/
def idle (s : State) : Out := .next s

/-- The reset event: CRC <- SEED and CID <- 0x0001, and no result, since reset is no operation (R20, R107). -/
def resetBlock (s : State) : Out := .next ((s.setCrc SEED).setCid firstCid)

/-- An illegal op byte raises ILLEGAL_OP (R46). -/
def raiseIllegalOp (s : State) : Out := raise .illegalOp s

/-- A request whose operands do not match its op's row is refused (R45). -/
def refuseIllTyped (_s : State) : Out := .refused .illTypedRequest

/-! The encoder, for the operations and the commands alike (R44, R57, R82, R83). -/

/-- The body of ENC_MD (R82). Both checks come before the counter is read and advanced. -/
def encodeMd (a cmd : Byte) (p : Seq) (s : State) : Out :=
  match preamble a with
  | none => raise .badAddress s
  | some pre =>
    if lenOk p then ret (some (.seq (frameMd pre a cmd s.cid p))) (s.setCid (nextCid s.cid))
    else raise .payloadTooLong s

/-- The body of ENC_P2P (R83). CID is neither read nor written. -/
def encodeP2p (a cmd : Byte) (p : Seq) (s : State) : Out :=
  if lenOk p then ret (some (.seq (frameP2p a cmd p))) s else raise .payloadTooLong s

/-- The encoder in a given addressing mode (R44). -/
def encodeIn (m : Mode) (a cmd : Byte) (p : Seq) (s : State) : Out :=
  match m with
  | .md => encodeMd a cmd p s
  | .p2p => encodeP2p a cmd p s

end Sys2Proof.Machine
end

