-- ==== Sys2Proof/Machine/CommandFamily.lean ====
section
/-!
DEFINITION. Machine/CommandFamily.lean: the command codes of 30_encoding.md R58. The code is opaque to the codec (R57, R59): each of these encodes
the frame that carries its code, in the addressing mode asked for (DESIGN CHOICE, log 4). What a unit does with the frame is
outside the block.
-/

namespace Sys2Proof.Machine

/-- A PHASE_SHIFTER_SET / DELAY_LINE_SET frame, code 0x02 (R58). -/
def execPhaseShifterSetDelayLineSet (m : Mode) (a : Byte) (p : Seq) (s : State) : Out :=
  encodeIn m a codePhaseShifterSetDelayLineSet p s

/-- An ATTENUATOR_SET frame, code 0x09 (R58). -/
def execAttenuatorSet (m : Mode) (a : Byte) (p : Seq) (s : State) : Out :=
  encodeIn m a codeAttenuatorSet p s

/-- A VIP_ON_OFF frame, code 0x0B (R58). -/
def execVipOnOff (m : Mode) (a : Byte) (p : Seq) (s : State) : Out :=
  encodeIn m a codeVipOnOff p s

/-- A PPM_SWITCH frame, code 0x33 (R58). -/
def execPpmSwitch (m : Mode) (a : Byte) (p : Seq) (s : State) : Out :=
  encodeIn m a codePpmSwitch p s

/-- A BEAM_QUEUE_APPEND frame, code 0x65 (R58). -/
def execBeamQueueAppend (m : Mode) (a : Byte) (p : Seq) (s : State) : Out :=
  encodeIn m a codeBeamQueueAppend p s

/-- A TASK_RESET frame, code 0x66 (R58). -/
def execTaskReset (m : Mode) (a : Byte) (p : Seq) (s : State) : Out :=
  encodeIn m a codeTaskReset p s

/-- A CALIBRATION_BENCH_MODE frame, code 0xC9 (R58). -/
def execCalibrationBenchMode (m : Mode) (a : Byte) (p : Seq) (s : State) : Out :=
  encodeIn m a codeCalibrationBenchMode p s

/-- A BEAM_CALIBRATION_MODE frame, code 0xD9 (R58). -/
def execBeamCalibrationMode (m : Mode) (a : Byte) (p : Seq) (s : State) : Out :=
  encodeIn m a codeBeamCalibrationMode p s

/-- A TELEMETRY_REQUEST_P2P frame, code 0xFA (R58). -/
def execTelemetryRequestP2p (m : Mode) (a : Byte) (p : Seq) (s : State) : Out :=
  encodeIn m a codeTelemetryRequestP2p p s

/-- A TELEMETRY_REQUEST / STATUS_PROBE variant frame, code 0xFB (R58, C9). -/
def execTelemetryRequestStatusProbeVariant (m : Mode) (a : Byte) (p : Seq) (s : State) : Out :=
  encodeIn m a codeTelemetryRequestStatusProbeVariant p s

end Sys2Proof.Machine
end

