-- ==== Sys2Proof/Machine/CrcFamily.lean ====
section
/-!
DEFINITION. Machine/CrcFamily.lean: the CRC family (40_crc.md R68 to R72). None of its operations can raise (R64, R101).
-/

namespace Sys2Proof.Machine

/-- CRC_INIT (R68): `CRC <- SEED; return`. -/
def execCrcInit (s : State) : Out := ret none (s.setCrc SEED)

/-- CRC_UPDATE (R69): `CRC <- CRC_BYTE(CRC, d); return`. -/
def execCrcUpdate (d : Byte) (s : State) : Out := ret none (s.setCrc (crcByte s.crc d))

/-- CRC_READ (R71): `return CRC`. -/
def execCrcRead (s : State) : Out := ret (some (.u16 s.crc)) s

/-- CRC_COMPUTE (R72): `v = crc16(s); CRC <- v; return v`. -/
def execCrcCompute (q : Seq) (s : State) : Out := ret (some (.u16 (crc16 q))) (s.setCrc (crc16 q))

end Sys2Proof.Machine
end

