-- ==== Sys2Proof/Machine/FrameFamily.lean ====
section
/-!
DEFINITION. Machine/FrameFamily.lean: the frame family (41_frame.md R79 to R88): the queries, the encoders and the decoders.
-/

namespace Sys2Proof.Machine

/-- PRE_SEL (R79). -/
def execPreSel (a : Byte) (s : State) : Out :=
  match preamble a with
  | none => raise .badAddress s
  | some pre => ret (some (.seq pre.toSeq)) s

/-- CID_READ (R81): `return CID`. -/
def execCidRead (s : State) : Out := ret (some (.u16 s.cid)) s

/-- ENC_MD (R82). -/
def execEncMd (a cmd : Byte) (p : Seq) (s : State) : Out := encodeIn .md a cmd p s

/-- ENC_P2P (R83). -/
def execEncP2p (a cmd : Byte) (p : Seq) (s : State) : Out := encodeIn .p2p a cmd p s

/-- DEC_MD's checks, in the order of R85 and R104, and the record of R87. -/
def decodeMd (f : Seq) : Except Error Frame :=
  if f.length < mdOverhead then .error .truncated
  else if Config.maxPayload < f.length - mdOverhead then .error .payloadTooLong
  else if crc16 (slice f 3 (f.length - 3)) ≠ fromBe16 f (f.length - 2) then .error .crcMismatch
  else if byteAt f 3 ≠ SEP then .error .badSeparator
  else
    match preamble (byteAt f 4) with
    | none => .error .badAddress
    | some pre =>
      if preambleOf f ≠ pre then .error .badPreamble
      else .ok { preamble := some (preambleOf f), address := byteAt f 4, commandCode := byteAt f 5,
                 commandId := fromBe16 f 6, payload := slice f 8 (f.length - 3),
                 crc := fromBe16 f (f.length - 2) }

/-- DEC_P2P's checks, in the order of R86 and R104, and the record of R87. -/
def decodeP2p (f : Seq) : Except Error Frame :=
  if f.length < p2pOverhead then .error .truncated
  else if Config.maxPayload < f.length - p2pOverhead then .error .payloadTooLong
  else if crc16 (slice f 0 (f.length - 3)) ≠ fromBe16 f (f.length - 2) then .error .crcMismatch
  else if byteAt f 0 ≠ SEP then .error .badSeparator
  else .ok { preamble := none, address := byteAt f 1, commandCode := byteAt f 2,
             commandId := fromBe16 f 3, payload := slice f 5 (f.length - 3),
             crc := fromBe16 f (f.length - 2) }

/-- A decode's outcome as the operation's result: no register is read or written (R85, R86). -/
def answerDecode (r : Except Error Frame) (s : State) : Out :=
  match r with
  | .ok f => ret (some (.frame f)) s
  | .error e => raise e s

/-- DEC_MD (R85). -/
def execDecMd (f : Seq) (s : State) : Out := answerDecode (decodeMd f) s

/-- DEC_P2P (R86). -/
def execDecP2p (f : Seq) (s : State) : Out := answerDecode (decodeP2p f) s

end Sys2Proof.Machine
end

