-- ==== Sys2Proof/Machine/Dispatch.lean ====
section
/-!
DEFINITION. Machine/Dispatch.lean: one arm per instruction.
-/

namespace Sys2Proof.Machine

/-- The meaning of each instruction. -/
def exec (i : Instr) (s : State) : Host.Outcome State Fault Refusal :=
  match i with
  | .crcInit => Sys2Proof.Machine.execCrcInit s
  | .crcUpdate d => Sys2Proof.Machine.execCrcUpdate d s
  | .crcRead => Sys2Proof.Machine.execCrcRead s
  | .crcCompute q => Sys2Proof.Machine.execCrcCompute q s
  | .preSel a => Sys2Proof.Machine.execPreSel a s
  | .cidRead => Sys2Proof.Machine.execCidRead s
  | .encMd a cmd p => Sys2Proof.Machine.execEncMd a cmd p s
  | .encP2p a cmd p => Sys2Proof.Machine.execEncP2p a cmd p s
  | .decMd f => Sys2Proof.Machine.execDecMd f s
  | .decP2p f => Sys2Proof.Machine.execDecP2p f s
  | .phaseShifterSetDelayLineSet m a p => Sys2Proof.Machine.execPhaseShifterSetDelayLineSet m a p s
  | .attenuatorSet m a p => Sys2Proof.Machine.execAttenuatorSet m a p s
  | .vipOnOff m a p => Sys2Proof.Machine.execVipOnOff m a p s
  | .ppmSwitch m a p => Sys2Proof.Machine.execPpmSwitch m a p s
  | .beamQueueAppend m a p => Sys2Proof.Machine.execBeamQueueAppend m a p s
  | .taskReset m a p => Sys2Proof.Machine.execTaskReset m a p s
  | .calibrationBenchMode m a p => Sys2Proof.Machine.execCalibrationBenchMode m a p s
  | .beamCalibrationMode m a p => Sys2Proof.Machine.execBeamCalibrationMode m a p s
  | .telemetryRequestP2p m a p => Sys2Proof.Machine.execTelemetryRequestP2p m a p s
  | .telemetryRequestStatusProbeVariant m a p => Sys2Proof.Machine.execTelemetryRequestStatusProbeVariant m a p s

end Sys2Proof.Machine
end

