-- ==== Sys2Proof/Machine/Step.lean ====
section
/-!
DEFINITION. Machine/Step.lean: one step serves the oldest event of the host (00_scope.md R7, R8; 20_memory.md R33, R35).
-/

namespace Sys2Proof.Machine

/-- One step: the oldest pending event is taken and served whole. -/
def step (s : State) : Host.Outcome State Fault Refusal :=
  match s.pending with
  | [] => idle s
  | e :: rest =>
    match decode e with
    | .op i => exec i (s.withPending rest)
    | .illegalOp => raiseIllegalOp (s.withPending rest)
    | .illTyped => refuseIllTyped (s.withPending rest)
    | .reset => resetBlock (s.withPending rest)

/-- The state in which the next step serves the event a word of opcode_table.json stands for: that event is put before
those already pending, and nothing else changes (log 13). -/
def State.withFetchWord (s : State) (nbits w : Nat) : State :=
  s.withPending (tableEvent nbits w :: s.pending)

end Sys2Proof.Machine
end

