-- ==== Sys2Proof/Machine/Sequence.lean ====
section
/-!
DEFINITION. Machine/Sequence.lean: operations issued one after another (20_memory.md R35), and the pseudo-operation CRC_STREAM (30_encoding.md R48).
-/

namespace Sys2Proof.Machine

/-- Go on from a next state; a fault or a refusal ends the sequence. -/
def andThen (o : Out) (k : State → Out) : Out :=
  match o with
  | .next s => k s
  | .fault r => .fault r
  | .refused r => .refused r

/-- The operations of a list, in issue order: each sees every write of all earlier ones (R35). -/
def execAll : List Instr → State → Out
  | [], s => .next s
  | i :: is, s => andThen (exec i s) (execAll is)

/-- k steps one after another (R35). -/
def stepTimes : Nat → State → Out
  | 0, s => .next s
  | k + 1, s => andThen (step s) (stepTimes k)

/-- `CRC_STREAM s` (R48): CRC_INIT, one CRC_UPDATE per byte in order, CRC_READ. -/
def crcStream (s : Seq) : List Instr := .crcInit :: (s.map Instr.crcUpdate ++ [.crcRead])

end Sys2Proof.Machine
end

