-- ==== Sys2Proof/Machine/Assembly.lean ====
section
/-!
DEFINITION. Machine/Assembly.lean: the notation of 30_encoding.md R47 (`ENC_MD 12, 0x66, []`) and the pseudo-operation of R48, read from
characters. A notation for test programs only: no step depends on it.
-/

namespace Sys2Proof.Machine

/-- A token of a line: a word (a mnemonic or a number), a byte sequence, or a comma. -/
inductive Token where
  | word (cs : List Char)
  | bytes (s : Seq)
  | comma
  deriving DecidableEq, Repr

/-- Where the reader of a line stands: between sequences with a word begun, within brackets with a byte begun, or within
quotation marks. -/
inductive ReadState where
  | plain (word : List Char)
  | hex (done : Seq) (byte : List Char)
  | quoted (done : Seq)
  deriving DecidableEq, Repr

/-- The value of a hexadecimal digit. -/
def hexDigit (c : Char) : Option Nat :=
  if 48 ≤ c.toNat ∧ c.toNat ≤ 57 then some (c.toNat - 48)
  else if 65 ≤ c.toNat ∧ c.toNat ≤ 70 then some (c.toNat - 55)
  else if 97 ≤ c.toNat ∧ c.toNat ≤ 102 then some (c.toNat - 87)
  else none

/-- Digits in base `base`, most significant first, after the value `acc`. -/
def digits (base : Nat) : List Char → Nat → Option Nat
  | [], acc => some acc
  | c :: cs, acc =>
    match hexDigit c with
    | none => none
    | some v => if v < base then digits base cs (acc * base + v) else none

/-- A number below 256 (R45). -/
def toByte (n : Option Nat) : Option Byte :=
  match n with
  | none => none
  | some v => if v < 256 then some (BitVec.ofNat 8 v) else none

/-- A u8 operand: hexadecimal after `0x`, else decimal (R47). -/
def readU8 : List Char → Option Byte
  | [] => none
  | '0' :: 'x' :: c :: cs => toByte (digits 16 (c :: cs) 0)
  | cs => toByte (digits 10 cs 0)

/-- One byte within brackets: one or two hexadecimal digits. -/
def readHexByte : List Char → Option Byte
  | [a] => toByte (digits 16 [a] 0)
  | [a, b] => toByte (digits 16 [a, b] 0)
  | _ => none

/-- A begun word becomes a token. -/
def endWord (w : List Char) (out : List Token) : List Token :=
  if w.isEmpty then out else out ++ [.word w]

/-- A begun byte within brackets is added to the sequence. -/
def endByte (done : Seq) (byte : List Char) : Option Seq :=
  if byte.isEmpty then some done
  else match readHexByte byte with
    | none => none
    | some b => some (done ++ [b])

/-- The quotation mark. -/
def quoteMark : Char := Char.ofNat 34

/-- The tokens of a line (R47): words, `[AA 0C 66]` in hexadecimal, or an ASCII string in quotation marks. -/
def tokens (st : ReadState) (out : List Token) : List Char → Option (List Token)
  | [] =>
    match st with
    | .plain w => some (endWord w out)
    | .hex _ _ => none
    | .quoted _ => none
  | c :: cs =>
    match st with
    | .plain w =>
      if c = ' ' then tokens (.plain []) (endWord w out) cs
      else if c = ',' then tokens (.plain []) (endWord w out ++ [.comma]) cs
      else if c = '[' then tokens (.hex [] []) (endWord w out) cs
      else if c = quoteMark then tokens (.quoted []) (endWord w out) cs
      else tokens (.plain (w ++ [c])) out cs
    | .hex done byte =>
      if c = ' ' then
        match endByte done byte with
        | none => none
        | some d => tokens (.hex d []) out cs
      else if c = ']' then
        match endByte done byte with
        | none => none
        | some d => tokens (.plain []) (out ++ [.bytes d]) cs
      else tokens (.hex done (byte ++ [c])) out cs
    | .quoted done =>
      if c = quoteMark then tokens (.plain []) (out ++ [.bytes done]) cs
      else if c.toNat < 128 then tokens (.quoted (done ++ [BitVec.ofNat 8 c.toNat])) out cs
      else none

/-- One operand. -/
def readOperand : Token → Option Operand
  | .word cs => (readU8 cs).map Operand.u8
  | .bytes s => some (.seq s)
  | .comma => none

/-- Operands separated by commas. -/
def readOperands : List Token → Option (List Operand)
  | [] => some []
  | [t] => (readOperand t).map (fun o => [o])
  | t :: .comma :: u :: ts =>
    match readOperand t, readOperands (u :: ts) with
    | some o, some os => some (o :: os)
    | _, _ => none
  | _ => none

/-- The mnemonics of R43. -/
def mnemonicTable : List (List Char × OpCode) :=
  [("CRC_INIT".toList, .crcInit), ("CRC_UPDATE".toList, .crcUpdate), ("CRC_READ".toList, .crcRead),
   ("CRC_COMPUTE".toList, .crcCompute), ("PRE_SEL".toList, .preSel), ("CID_READ".toList, .cidRead),
   ("ENC_MD".toList, .encMd), ("ENC_P2P".toList, .encP2p), ("DEC_MD".toList, .decMd), ("DEC_P2P".toList, .decP2p)]

/-- One line of a test program (R47, R48): an operation, or CRC_STREAM and what it expands to. -/
def assembleLine (line : String) : Option (List Instr) :=
  match tokens (.plain []) [] line.toList with
  | some (.word w :: ts) =>
    match readOperands ts with
    | none => none
    | some os =>
      match mnemonicTable.lookup w with
      | some c => (withOperands c os).map (fun i => [i])
      | none =>
        if w = "CRC_STREAM".toList then
          match os with
          | [.seq s] => some (crcStream s)
          | _ => none
        else none
  | _ => none

/-- A test program, line by line, as the events its host issues (R35). -/
def assemble : List String → Option (List HostEvent)
  | [] => some []
  | l :: ls =>
    match assembleLine l, assemble ls with
    | some is, some es => some (is.map encode ++ es)
    | _, _ => none

end Sys2Proof.Machine
end

