-- ==== Sys2Proof/Safety.lean ====
section
/-!
DEFINITION. Safety.lean: what claims call a good state and a good host. `Inv` is what every step keeps; `hostAnswered` says
that the host respects R45.
-/

namespace Sys2Proof.Machine

/-- A decoded record is genuine: its CRC is that of its own fields (R87), its payload is within MAX_PAYLOAD, and a preamble,
where there is one, is the one its address selects. -/
def Frame.genuine (f : Frame) : Bool :=
  (f.crc == crc16 (cover f.address f.commandCode f.commandId f.payload)) && lenOk f.payload &&
    (match f.preamble with
     | none => true
     | some pre => Sys2Proof.Machine.preamble f.address == some pre)

/-- A result that holds a frame record holds a genuine one. -/
def Result.genuine : Result → Bool
  | .ok (some (.frame f)) => f.genuine
  | _ => true

/-- What holds at reset and is kept by every step: CID is never 0x0000 (R18), and every frame record the host ever received
is genuine (R87). -/
def Inv (s : State) : Prop := s.cid ≠ 0x0000#16 ∧ ∀ r ∈ s.results, r.genuine = true

/-- Every pending event is one the block answers (R45). -/
def State.hostAnswered (s : State) : Bool := s.pending.all HostEvent.answered

end Sys2Proof.Machine
end

