-- ==== Sys2Proof/Certificates/Slice0/Obligations.lean ====
section
/-!
DEFINITION. Certificates/Slice0/Obligations.lean: the statements for the provers. Each docstring names the rule or section of
spec/ it formalises. `{ s with … }` is the whole next state, so each such equation is also its operation's frame.
-/

open Sys2Proof Sys2Proof.Machine

/-! ## Encoding of requests -/

/-- The op bytes of 30_encoding.md section 1 (the operation list), each with its operands, written out. -/
def Obligations.OpBytesSelectTheirOperations : Prop :=
  ∀ (d a cmd : Byte) (q p f : Seq),
    decode (.request 0b00000001#8 []) = .op .crcInit ∧
    decode (.request 0b00000010#8 [.u8 d]) = .op (.crcUpdate d) ∧
    decode (.request 0b00000011#8 []) = .op .crcRead ∧
    decode (.request 0b00000100#8 [.seq q]) = .op (.crcCompute q) ∧
    decode (.request 0b00010000#8 [.u8 a]) = .op (.preSel a) ∧
    decode (.request 0b00010001#8 []) = .op .cidRead ∧
    decode (.request 0b00100000#8 [.u8 a, .u8 cmd, .seq p]) = .op (.encMd a cmd p) ∧
    decode (.request 0b00100001#8 [.u8 a, .u8 cmd, .seq p]) = .op (.encP2p a cmd p) ∧
    decode (.request 0b00110000#8 [.seq f]) = .op (.decMd f) ∧
    decode (.request 0b00110001#8 [.seq f]) = .op (.decP2p f)

/-- Decode and encode agree for every instruction, and each request has one meaning: it is the encoding of what it decodes to.
A frame command that decodes to a plain encode operation carries a code outside R58 (log 5 is the model's own event). -/
def Obligations.DecodeAndEncodeAgree : Prop :=
  (∀ i : Instr, decode (encode i) = .op i) ∧
  (∀ (op : Byte) (os : List Operand) (i : Instr), decode (.request op os) = .op i → encode i = .request op os) ∧
  (∀ (code : Byte) (m : Mode) (a : Byte) (p : Seq) (i : Instr), decode (.command code m a p) = .op i →
    if code ∈ [0x02#8, 0x09#8, 0x0B#8, 0x33#8, 0x65#8, 0x66#8, 0xC9#8, 0xD9#8, 0xFA#8, 0xFB#8]
    then encode i = .command code m a p
    else i = match m with
      | .md => Instr.encMd a code p
      | .p2p => Instr.encP2p a code p)

/-- 30_encoding.md section 1: the op bytes outside the operation list, range by range, raise ILLEGAL_OP, and no register is
written; every other op byte is an operation. That no operands change this is the model's reading of R46 and of
60_exceptions.md section 3, DEDUCED, log 8; the list of events is log 1. -/
def Obligations.IllegalOpBytesRaiseIllegalOp : Prop :=
  ∀ op : Byte,
    ((op.toNat = 0x00 ∨ (0x05 ≤ op.toNat ∧ op.toNat ≤ 0x0F) ∨ (0x12 ≤ op.toNat ∧ op.toNat ≤ 0x1F) ∨
        (0x22 ≤ op.toNat ∧ op.toNat ≤ 0x2F) ∨ (0x32 ≤ op.toNat ∧ op.toNat ≤ 0xFF)) →
      ∀ (os : List Operand) (s : State) (rest : List HostEvent), s.pending = .request op os :: rest →
        step s = .next { s with pending := rest, results := s.results ++ [.error .illegalOp] }) ∧
    (¬(op.toNat = 0x00 ∨ (0x05 ≤ op.toNat ∧ op.toNat ≤ 0x0F) ∨ (0x12 ≤ op.toNat ∧ op.toNat ≤ 0x1F) ∨
        (0x22 ≤ op.toNat ∧ op.toNat ≤ 0x2F) ∨ (0x32 ≤ op.toNat ∧ op.toNat ≤ 0xFF)) →
      ∃ (os : List Operand) (i : Instr), decode (.request op os) = .op i)

/-- R45: operands that do not match the row of their op byte (too few, too many, or the wrong type) are refused at the decoder, and
operands that match it, with a seq of any length, are decoded: the operation itself checks the length. -/
def Obligations.MismatchedOperandsAreRefused : Prop :=
  (∀ row ∈ [(0x01#8, ([] : List OperandKind)), (0x02#8, [.u8]), (0x03#8, []), (0x04#8, [.seq]), (0x10#8, [.u8]), (0x11#8, []),
      (0x20#8, [.u8, .u8, .seq]), (0x21#8, [.u8, .u8, .seq]), (0x30#8, [.seq]), (0x31#8, [.seq])],
    ∀ (os : List Operand) (s : State) (rest : List HostEvent), s.pending = .request row.1 os :: rest →
      (os.map Operand.kind ≠ row.2 → step s = .refused .illTypedRequest) ∧
      (os.map Operand.kind = row.2 → ∃ i, decode (.request row.1 os) = .op i)) ∧
  (∀ (a cmd : Byte) (p : Seq) (s : State), a.toNat ≤ 40 → Config.maxPayload < p.length →
    exec (.encMd a cmd p) s = .next { s with results := s.results ++ [.error .payloadTooLong] }) ∧
  (∀ (a cmd : Byte) (p : Seq) (s : State), Config.maxPayload < p.length →
    exec (.encP2p a cmd p) s = .next { s with results := s.results ++ [.error .payloadTooLong] }) ∧
  (∀ (f : Seq) (s : State),
    (f.length < 10 → exec (.decMd f) s = .next { s with results := s.results ++ [.error .truncated] }) ∧
    (10 + Config.maxPayload < f.length →
      exec (.decMd f) s = .next { s with results := s.results ++ [.error .payloadTooLong] }) ∧
    (f.length < 7 → exec (.decP2p f) s = .next { s with results := s.results ++ [.error .truncated] }) ∧
    (7 + Config.maxPayload < f.length →
      exec (.decP2p f) s = .next { s with results := s.results ++ [.error .payloadTooLong] }))

/-- R42: the `fam` field names the family, and in the encode and decode families `mem[0]` is the addressing mode, 0 for MD and 1 for
P2P; only the listed values are defined. -/
def Obligations.OpByteFieldsNameFamilyAndMode : Prop :=
  ∀ op : Byte,
    ((opCodeOf op).isSome = true ↔
      op ∈ [0x01#8, 0x02#8, 0x03#8, 0x04#8, 0x10#8, 0x11#8, 0x20#8, 0x21#8, 0x30#8, 0x31#8]) ∧
    match opCodeOf op with
    | some .crcInit | some .crcUpdate | some .crcRead | some .crcCompute => opFam op = 0x0#4
    | some .preSel | some .cidRead => opFam op = 0x1#4
    | some .encMd => opFam op = 0x2#4 ∧ (opMem op).getLsbD 0 = false
    | some .encP2p => opFam op = 0x2#4 ∧ (opMem op).getLsbD 0 = true
    | some .decMd => opFam op = 0x3#4 ∧ (opMem op).getLsbD 0 = false
    | some .decP2p => opFam op = 0x3#4 ∧ (opMem op).getLsbD 0 = true
    | none => True

/-! ## Steps and reset -/

/-- 20_memory.md section 4 and 00_scope.md section 3: a step takes the oldest event of the host (log 1); where it decodes to an
instruction, the step is that instruction's execution, and the other events stay as they are. -/
def Obligations.StepRunsTheDecodedInstruction : Prop :=
  ∀ (s : State) (e : HostEvent) (rest : List HostEvent) (i : Instr),
    s.pending = e :: rest → decode e = .op i → step s = exec i { s with pending := rest }

/-- 20_memory.md section 4: operations take effect one at a time, in the order the host issues them (log 1 is the host's list). -/
def Obligations.OperationsTakeEffectInIssueOrder : Prop :=
  ∀ (is : List Instr) (s : State) (rest : List HostEvent), s.pending = is.map encode ++ rest →
    stepTimes is.length s = execAll is { s with pending := rest }

/-- 70_reset_and_hazards.md section 1: reset, between two operations and from any state, writes CRC <- 0x1D0F and CID <- 0x0001.
That it comes from the host's list is the model's choice, log 1; that it adds no result and leaves the other events as they are
is DEDUCED, log 10. -/
def Obligations.ResetEventWritesBothRegisters : Prop :=
  ∀ (s : State) (rest : List HostEvent), s.pending = .reset :: rest →
    step s = .next { s with crc := 0x1D0F#16, cid := 0x0001#16, pending := rest }

/-- R20: the reset values; a stream that starts right after reset needs no CRC_INIT, and the first MD frame carries id 1. -/
def Obligations.ResetValuesServeTheFirstOperations : Prop :=
  State.reset.crc = 0x1D0F#16 ∧ State.reset.cid = 0x0001#16 ∧
  (∀ q : Seq, ∃ t u : State, execAll (q.map Instr.crcUpdate) State.reset = .next t ∧
    execAll (.crcInit :: q.map Instr.crcUpdate) State.reset = .next u ∧ t.crc = u.crc) ∧
  (∀ (a cmd : Byte) (p : Seq), a.toNat ≤ 40 → p.length ≤ Config.maxPayload →
    ∃ (t : State) (f : Seq), exec (.encMd a cmd p) State.reset = .next t ∧
      t.results = [.ok (some (.seq f))] ∧ fromBe16 f 6 = 0x0001#16)

/-- 60_exceptions.md sections 1 and 2 with 30_encoding.md section 1: a step refuses only a request whose operands do not match its
row, and a host that issues no such request always goes on. Three clauses are the model's: that no step faults (DEDUCED, log 14),
that a step with nothing pending answers a next state (DESIGN CHOICE, log 2; the list is log 1), and that an illegal op byte is
answered with any operands (DEDUCED, log 8). The refusal's form is log 9. -/
def Obligations.StepGoesOnForEveryAnsweredEvent : Prop :=
  (∀ (s : State) (r : Fault), step s ≠ .fault r) ∧
  (∀ (s : State) (r : Refusal), step s = .refused r →
    r = .illTypedRequest ∧ ∃ (op : Byte) (os : List Operand) (rest : List HostEvent),
      s.pending = .request op os :: rest ∧ (HostEvent.request op os).answered = false) ∧
  (∀ s : State, s.hostAnswered = true → ∃ t : State, step s = .next t ∧ t.hostAnswered = true)

/-! ## The CRC -/

/-- R65: shift left by one within 16 bits, and XOR 0x1021 in when the top bit and the data bit differ; masking before or after
the XOR gives the same. -/
def Obligations.CrcBitShiftsAndXorsThePolynomial : Prop :=
  ∀ (c : Word) (b : Bool),
    (crcBit c b).toNat = (if c.getLsbD 15 ≠ b then ((c.toNat <<< 1) &&& 0xFFFF) ^^^ 0x1021 else (c.toNat <<< 1) &&& 0xFFFF) ∧
    ((c.toNat <<< 1) ^^^ 0x1021) &&& 0xFFFF = ((c.toNat <<< 1) &&& 0xFFFF) ^^^ 0x1021

/-- R29: within the CRC each byte is taken bit 7 first and bit 0 last, and bytes in sequence order. R67: from SEED. -/
def Obligations.CrcTakesBytesInOrderAndBitsMsbFirst : Prop :=
  (∀ (c : Word) (d : Byte), crcByte c d =
    crcBit (crcBit (crcBit (crcBit (crcBit (crcBit (crcBit (crcBit c (d.getLsbD 7)) (d.getLsbD 6)) (d.getLsbD 5))
      (d.getLsbD 4)) (d.getLsbD 3)) (d.getLsbD 2)) (d.getLsbD 1)) (d.getLsbD 0)) ∧
  (∀ (c : Word) (b : Byte) (q : Seq), crcFrom c [] = c ∧ crcFrom c (b :: q) = crcFrom (crcByte c b) q) ∧
  (∀ q : Seq, crc16 q = crcFrom 0x1D0F#16 q)

/-- 40_crc.md section 1: the table-driven byte step gives the same result for every c and d (the spec marks it "derived: from
rule R65"), with the table entries the section names. -/
def Obligations.TableStepEqualsBitSteps : Prop :=
  (∀ (c : Word) (d : Byte), crcByteByTable c d = crcByte c d) ∧
  crcTable 0x00#8 = 0x0000#16 ∧ crcTable 0x01#8 = 0x1021#16 ∧ crcTable 0x02#8 = 0x2042#16 ∧ crcTable 0x10#8 = 0x1231#16 ∧
  crcTable 0x80#8 = 0x9188#16 ∧ crcTable 0xAA#8 = 0x14A0#16 ∧ crcTable 0xFF#8 = 0x1EF0#16

/-- R68: CRC_INIT loads the seed; it has no value, cannot raise, and leaves CID alone. -/
def Obligations.CrcInitLoadsTheSeed : Prop :=
  decode (.request 0x01#8 []) = .op .crcInit ∧
  ∀ s : State, exec .crcInit s = .next { s with crc := 0x1D0F#16, results := s.results ++ [.ok none] }

/-- R69: CRC_UPDATE feeds one byte into whatever CRC holds, with the rule's corner cases and example. -/
def Obligations.CrcUpdateFeedsOneByte : Prop :=
  (∀ d : Byte, decode (.request 0x02#8 [.u8 d]) = .op (.crcUpdate d)) ∧
  (∀ (d : Byte) (s : State), exec (.crcUpdate d) s =
    .next { s with crc := crcByte s.crc d, results := s.results ++ [.ok none] }) ∧
  crcByte SEED 0x00#8 = 0xCC9C#16 ∧
  (∀ c : Word, crcByte (crcByte c (c.extractLsb' 8 8)) (c.extractLsb' 0 8) = 0x0000#16) ∧
  crcByte 0x1D0F#16 0x31#8 = 0xEAEE#16

/-- R71: CRC_READ returns CRC and writes no register, with the rule's corner case and example. -/
def Obligations.CrcReadReturnsTheRegister : Prop :=
  decode (.request 0x03#8 []) = .op .crcRead ∧
  (∀ s : State, exec .crcRead s = .next { s with results := s.results ++ [.ok (some (.u16 s.crc))] }) ∧
  exec .crcRead State.reset = .next { State.reset with results := [.ok (some (.u16 0x1D0F#16))] } ∧
  (∀ s : State, ∃ t : State,
    execAll (crcStream [0x31#8, 0x32#8, 0x33#8, 0x34#8, 0x35#8, 0x36#8, 0x37#8, 0x38#8, 0x39#8]) s = .next t ∧
    exec .crcRead t = .next { t with results := t.results ++ [.ok (some (.u16 0xE5CC#16))] })

/-- R72: CRC_COMPUTE returns the CRC of the whole sequence and leaves it in CRC, whatever CRC held, as CRC_INIT and one CRC_UPDATE per
byte would leave it. -/
def Obligations.CrcComputeReturnsAndKeepsTheCrc : Prop :=
  (∀ q : Seq, decode (.request 0x04#8 [.seq q]) = .op (.crcCompute q)) ∧
  (∀ (q : Seq) (s : State), exec (.crcCompute q) s =
    .next { s with crc := crc16 q, results := s.results ++ [.ok (some (.u16 (crc16 q)))] }) ∧
  (∀ s : State, exec (.crcCompute []) s =
    .next { s with crc := 0x1D0F#16, results := s.results ++ [.ok (some (.u16 0x1D0F#16))] }) ∧
  (∀ (q : Seq) (s : State), ∃ t : State, execAll (.crcInit :: q.map Instr.crcUpdate) s = .next t ∧ t.crc = crc16 q) ∧
  crc16 [0x31#8, 0x32#8, 0x33#8, 0x34#8, 0x35#8, 0x36#8, 0x37#8, 0x38#8, 0x39#8] = 0xE5CC#16

/-- R73: the CRC of no byte is the seed. -/
def Obligations.CrcOfNoByteIsTheSeed : Prop :=
  crc16 [] = SEED ∧ SEED = 0x1D0F#16

/-- 30_encoding.md section 1 (the pseudo-operation) and 40_crc.md section 2 (the stream law, which the spec marks "derived: from rule R67, rule
R68 and rule R69"): CRC_STREAM q leaves and returns crc16 q; updates alone go on from what CRC holds. -/
def Obligations.StreamLeavesTheCrcOfItsBytes : Prop :=
  (∀ (q : Seq) (s : State), execAll (q.map Instr.crcUpdate) s =
    .next { s with crc := crcFrom s.crc q, results := s.results ++ List.replicate q.length (.ok none) }) ∧
  (∀ (q : Seq) (s : State), execAll (crcStream q) s =
    .next { s with
      crc := crc16 q
      results := s.results ++ List.replicate (q.length + 1) (.ok none) ++ [.ok (some (.u16 (crc16 q)))] })

/-- 40_crc.md section 3, the residue law (the spec marks it "derived: from rule R65 and rule R67"): a message followed by a CRC runs to 0
exactly when the CRC is its own, so a decoder may check by residue or by comparison. -/
def Obligations.ResidueIsZeroExactlyForTheCrc : Prop :=
  (∀ m : Seq, crc16 (m ++ be16 (crc16 m)) = 0x0000#16) ∧
  (∀ (m : Seq) (v : Word), crc16 (m ++ be16 v) = 0x0000#16 ↔ v = crc16 m) ∧
  crc16 [0x1D#8, 0x0F#8] = 0x0000#16

/-- 40_crc.md section 3, the affine law (the spec marks it "derived: from rule R65"), with the CRCs of 0 to 4 zero bytes. -/
def Obligations.CrcIsAffine : Prop :=
  (∀ a b : Seq, a.length = b.length →
    crc16 (List.zipWith (· ^^^ ·) a b) = crc16 a ^^^ crc16 b ^^^ crc16 (List.replicate a.length 0x00#8)) ∧
  crc16 (List.replicate 0 0x00#8) = 0x1D0F#16 ∧ crc16 (List.replicate 1 0x00#8) = 0xCC9C#16 ∧
  crc16 (List.replicate 2 0x00#8) = 0x84C0#16 ∧ crc16 (List.replicate 3 0x00#8) = 0x110C#16 ∧
  crc16 (List.replicate 4 0x00#8) = 0x0E10#16

/-- 40_crc.md section 3, the error-detection law (the spec rests it on a property of CRC codes, "from general knowledge, not in source"):
a change confined to 16 consecutive bits of a message and its CRC leaves a residue other than 0. -/
def Obligations.BurstsOfSixteenBitsAreDetected : Prop :=
  ∀ (m g : Seq) (k : Nat), g.length = m.length + 2 → g ≠ m ++ be16 (crc16 m) →
    (∀ j : Nat, bitAt g j ≠ bitAt (m ++ be16 (crc16 m)) j → k ≤ j ∧ j < k + 16) →
    crc16 g ≠ 0x0000#16

/-! ## The counter -/

/-- R17: NEXT adds 1 and goes from 0xFFFF to 0x0001; it never gives 0. -/
def Obligations.NextIdIncrementsAndWrapsToOne : Prop :=
  nextCid 0xFFFF#16 = 0x0001#16 ∧
  ∀ v : Word, (v ≠ 0xFFFF#16 → (nextCid v).toNat = v.toNat + 1) ∧ nextCid v ≠ 0x0000#16

/-- R81: CID_READ returns CID, the id that the next successful ENC_MD uses, and writes no register, with the rule's corner cases and
example; that it never returns 0 rests on the invariant that CID is not 0. -/
def Obligations.CidReadReturnsTheCounter : Prop :=
  decode (.request 0x11#8 []) = .op .cidRead ∧
  (∀ s : State, exec .cidRead s = .next { s with results := s.results ++ [.ok (some (.u16 s.cid))] }) ∧
  exec .cidRead State.reset = .next { State.reset with results := [.ok (some (.u16 0x0001#16))] } ∧
  (∀ s t : State, Inv s → exec .cidRead s = .next t → t.results ≠ s.results ++ [.ok (some (.u16 0x0000#16))]) ∧
  (∀ (a cmd : Byte) (p : Seq) (s : State), a.toNat ≤ 40 → p.length ≤ Config.maxPayload →
    ∃ (t : State) (f : Seq), exec (.encMd a cmd p) s = .next t ∧ t.results = s.results ++ [.ok (some (.seq f))] ∧
      fromBe16 f 6 = s.cid) ∧
  (∀ (a cmd : Byte) (p : Seq), a.toNat ≤ 40 → p.length ≤ Config.maxPayload →
    ∃ t : State, exec (.encMd a cmd p) State.reset = .next t ∧
      exec .cidRead t = .next { t with results := t.results ++ [.ok (some (.u16 0x0002#16))] })

/-- 41_frame.md section 5, rollover (the spec marks it "derived: from rule R82"): successive ENC_MD operations carry c, NEXT(c),
NEXT(NEXT(c)), …; from 1 the k-th next id is k mod 65535 + 1. -/
def Obligations.SuccessiveFramesCarrySuccessiveIds : Prop :=
  (∀ k : Nat, (nextCid^[k] 0x0001#16).toNat = k % 65535 + 1) ∧
  (∀ (ops : List (Byte × Byte × Seq)) (s : State),
    (∀ o ∈ ops, o.1.toNat ≤ 40 ∧ o.2.2.length ≤ Config.maxPayload) →
    ∃ t : State, execAll (ops.map fun o => Instr.encMd o.1 o.2.1 o.2.2) s = .next t ∧
      t.cid = nextCid^[ops.length] s.cid ∧ t.crc = s.crc ∧ t.results.length = s.results.length + ops.length ∧
      ∀ j < ops.length, ∃ f : Seq,
        t.results[s.results.length + j]? = some (.ok (some (.seq f))) ∧ fromBe16 f 6 = nextCid^[j] s.cid)

/-! ## Frames -/

/-- R54: the preamble table, range by range. -/
def Obligations.PreambleFollowsTheTable : Prop :=
  ∀ a : Byte,
    (a.toNat = 0 → preamble a = some ⟨0x00#8, 0xFF#8, 0x00#8⟩) ∧
    (1 ≤ a.toNat ∧ a.toNat ≤ 8 → preamble a = some ⟨0x00#8, 0x10#8, 0xEF#8⟩) ∧
    (9 ≤ a.toNat ∧ a.toNat ≤ 16 → preamble a = some ⟨0x00#8, 0x12#8, 0xED#8⟩) ∧
    (17 ≤ a.toNat ∧ a.toNat ≤ 24 → preamble a = some ⟨0x00#8, 0x14#8, 0xEB#8⟩) ∧
    (25 ≤ a.toNat ∧ a.toNat ≤ 32 → preamble a = some ⟨0x00#8, 0x16#8, 0xE9#8⟩) ∧
    (33 ≤ a.toNat ∧ a.toNat ≤ 40 → preamble a = some ⟨0x00#8, 0x18#8, 0xE7#8⟩) ∧
    (41 ≤ a.toNat ∧ a.toNat ≤ 255 → preamble a = none)

/-- 30_encoding.md section 2, the observation on the table (marked "derived: from rule R54"): byte 0 is 0x00, byte 2 the complement of byte 1,
and byte 1 of group g is 0x10 + 2 (g - 1). -/
def Obligations.PreambleBytesAreComplementary : Prop :=
  (∀ (a : Byte) (pre : Preamble), preamble a = some pre → pre.b0 = 0x00#8 ∧ pre.b2 = ~~~pre.b1) ∧
  (∀ (g : Nat) (a : Byte) (pre : Preamble), 1 ≤ g → g ≤ 5 → 8 * g - 7 ≤ a.toNat → a.toNat ≤ 8 * g →
    preamble a = some pre → pre.b1.toNat = 0x10 + 2 * (g - 1))

/-- R79: PRE_SEL returns the preamble of an address up to 40 and raises BAD_ADDRESS above; it writes no register. -/
def Obligations.PreSelReturnsThePreambleOrRaises : Prop :=
  (∀ a : Byte, decode (.request 0x10#8 [.u8 a]) = .op (.preSel a)) ∧
  (∀ (a : Byte) (s : State), 40 < a.toNat →
    exec (.preSel a) s = .next { s with results := s.results ++ [.error .badAddress] }) ∧
  (∀ (a : Byte) (s : State), a.toNat ≤ 40 → ∃ pre : Preamble, preamble a = some pre ∧
    exec (.preSel a) s = .next { s with results := s.results ++ [.ok (some (.seq [pre.b0, pre.b1, pre.b2]))] }) ∧
  (∀ g : Nat, g < 5 → preamble (BitVec.ofNat 8 (8 * g + 1)) = preamble (BitVec.ofNat 8 (8 * g + 8)) ∧
    preamble (BitVec.ofNat 8 (8 * g)) ≠ preamble (BitVec.ofNat 8 (8 * g + 1))) ∧
  preamble 0x00#8 = some ⟨0x00#8, 0xFF#8, 0x00#8⟩ ∧ preamble 0x0C#8 = some ⟨0x00#8, 0x12#8, 0xED#8⟩

/-- R82: ENC_MD checks the address, then the payload's length; it builds the frame with the id CID holds and then advances CID. A
failing ENC_MD leaves CID. With the rule's corner cases and example. -/
def Obligations.EncMdBuildsTheFrameAndAdvancesTheId : Prop :=
  (∀ (a cmd : Byte) (p : Seq), decode (.request 0x20#8 [.u8 a, .u8 cmd, .seq p]) = .op (.encMd a cmd p)) ∧
  (∀ (a cmd : Byte) (p : Seq) (s : State), 40 < a.toNat →
    exec (.encMd a cmd p) s = .next { s with results := s.results ++ [.error .badAddress] }) ∧
  (∀ (a cmd : Byte) (p : Seq) (s : State), a.toNat ≤ 40 → Config.maxPayload < p.length →
    exec (.encMd a cmd p) s = .next { s with results := s.results ++ [.error .payloadTooLong] }) ∧
  (∀ (a cmd : Byte) (p : Seq) (s : State), a.toNat ≤ 40 → p.length ≤ Config.maxPayload →
    ∃ (pre : Preamble) (f : Seq), preamble a = some pre ∧
      f = [pre.b0, pre.b1, pre.b2, 0xAA#8, a, cmd, s.cid.extractLsb' 8 8, s.cid.extractLsb' 0 8] ++ p ++
        be16 (crc16 ([0xAA#8, a, cmd, s.cid.extractLsb' 8 8, s.cid.extractLsb' 0 8] ++ p)) ∧
      f.length = 10 + p.length ∧
      exec (.encMd a cmd p) s =
        .next { s with
          cid := if s.cid = 0xFFFF#16 then 0x0001#16 else s.cid + 1#16
          results := s.results ++ [.ok (some (.seq f))] }) ∧
  (∀ s : State, s.cid = 0x0001#16 → exec (.encMd 0x0C#8 0x66#8 []) s =
    .next { s with
      cid := 0x0002#16
      results := s.results ++ [.ok (some (.seq
        [0x00#8, 0x12#8, 0xED#8, 0xAA#8, 0x0C#8, 0x66#8, 0x00#8, 0x01#8, 0xEB#8, 0xDC#8]))] })

/-- R83: ENC_P2P checks only the payload's length; the frame has no preamble and the id 0, and CID is neither read nor written. -/
def Obligations.EncP2pBuildsTheFrameAndLeavesTheId : Prop :=
  (∀ (a cmd : Byte) (p : Seq), decode (.request 0x21#8 [.u8 a, .u8 cmd, .seq p]) = .op (.encP2p a cmd p)) ∧
  (∀ (a cmd : Byte) (p : Seq) (s : State), Config.maxPayload < p.length →
    exec (.encP2p a cmd p) s = .next { s with results := s.results ++ [.error .payloadTooLong] }) ∧
  (∀ (a cmd : Byte) (p : Seq) (s : State), p.length ≤ Config.maxPayload →
    ∃ f : Seq,
      f = [0xAA#8, a, cmd, 0x00#8, 0x00#8] ++ p ++ be16 (crc16 ([0xAA#8, a, cmd, 0x00#8, 0x00#8] ++ p)) ∧
      f.length = 7 + p.length ∧
      exec (.encP2p a cmd p) s = .next { s with results := s.results ++ [.ok (some (.seq f))] }) ∧
  (∀ s : State, exec (.encP2p 0x05#8 0xFA#8 []) s =
    .next { s with results := s.results ++ [.ok (some (.seq
      [0xAA#8, 0x05#8, 0xFA#8, 0x00#8, 0x00#8, 0x05#8, 0xD2#8]))] })

/-- R49 and R52: the layout of an MD frame by offsets, n its length and PRE(a) its preamble; the preamble is outside the covered
bytes. -/
def Obligations.MdFrameLayout : Prop :=
  ∀ (pre : Preamble) (a cmd : Byte) (id : Word) (p f : Seq) (n : Nat), preamble a = some pre → f = frameMd pre a cmd id p →
    n = f.length →
    n = 10 + p.length ∧ slice f 0 2 = [pre.b0, pre.b1, pre.b2] ∧ byteAt f 3 = 0xAA#8 ∧ byteAt f 4 = a ∧
    byteAt f 5 = cmd ∧ byteAt f 6 = id.extractLsb' 8 8 ∧ byteAt f 7 = id.extractLsb' 0 8 ∧ fromBe16 f 6 = id ∧
    slice f 8 (n - 3) = p ∧ slice f (n - 2) (n - 1) = be16 (crc16 (slice f 3 (n - 3))) ∧
    slice f 3 (n - 3) = [0xAA#8, a, cmd, id.extractLsb' 8 8, id.extractLsb' 0 8] ++ p

/-- R50: the layout of a P2P frame by offsets, n its length. -/
def Obligations.P2pFrameLayout : Prop :=
  ∀ (a cmd : Byte) (p f : Seq) (n : Nat), f = frameP2p a cmd p → n = f.length →
    n = 7 + p.length ∧ byteAt f 0 = 0xAA#8 ∧ byteAt f 1 = a ∧ byteAt f 2 = cmd ∧
    byteAt f 3 = 0x00#8 ∧ byteAt f 4 = 0x00#8 ∧
    slice f 5 (n - 3) = p ∧ slice f (n - 2) (n - 1) = be16 (crc16 (slice f 0 (n - 3)))

/-- R85: DEC_MD on every sequence: below 10 bytes it raises TRUNCATED; any longer sequence is read as preamble, separator, address, command
code, id, payload and CRC, and the first check that fails is the one reported. No register is written. -/
def Obligations.DecMdChecksInOrderAndReturnsTheFields : Prop :=
  (∀ f : Seq, decode (.request 0x30#8 [.seq f]) = .op (.decMd f)) ∧
  (∀ (f : Seq) (s : State), f.length < 10 →
    exec (.decMd f) s = .next { s with results := s.results ++ [.error .truncated] }) ∧
  (∀ (x0 x1 x2 sep a cmd ih il : Byte) (p : Seq) (ch cl : Byte) (s : State) (f : Seq) (covered : Seq),
    f = [x0, x1, x2, sep, a, cmd, ih, il] ++ p ++ [ch, cl] → covered = [sep, a, cmd, ih, il] ++ p →
    (Config.maxPayload < p.length →
      exec (.decMd f) s = .next { s with results := s.results ++ [.error .payloadTooLong] }) ∧
    (p.length ≤ Config.maxPayload → crc16 covered ≠ ch ++ cl →
      exec (.decMd f) s = .next { s with results := s.results ++ [.error .crcMismatch] }) ∧
    (p.length ≤ Config.maxPayload → crc16 covered = ch ++ cl → sep ≠ 0xAA#8 →
      exec (.decMd f) s = .next { s with results := s.results ++ [.error .badSeparator] }) ∧
    (p.length ≤ Config.maxPayload → crc16 covered = ch ++ cl → sep = 0xAA#8 → 40 < a.toNat →
      exec (.decMd f) s = .next { s with results := s.results ++ [.error .badAddress] }) ∧
    (p.length ≤ Config.maxPayload → crc16 covered = ch ++ cl → sep = 0xAA#8 → a.toNat ≤ 40 →
      preamble a ≠ some ⟨x0, x1, x2⟩ →
      exec (.decMd f) s = .next { s with results := s.results ++ [.error .badPreamble] }) ∧
    (p.length ≤ Config.maxPayload → crc16 covered = ch ++ cl → sep = 0xAA#8 → preamble a = some ⟨x0, x1, x2⟩ →
      exec (.decMd f) s = .next { s with results := s.results ++ [.ok (some (.frame
        { preamble := some ⟨x0, x1, x2⟩, address := a, commandCode := cmd, commandId := ih ++ il,
          payload := p, crc := ch ++ cl }))] })) ∧
  (∀ s : State, exec (.decMd [0x00#8, 0x12#8, 0xED#8, 0xAA#8, 0x0C#8, 0x66#8, 0x00#8, 0x01#8, 0xEB#8, 0xDC#8]) s =
    .next { s with results := s.results ++ [.ok (some (.frame
      { preamble := some ⟨0x00#8, 0x12#8, 0xED#8⟩, address := 12#8, commandCode := 0x66#8, commandId := 1#16,
        payload := [], crc := 0xEBDC#16 }))] })

/-- R86: DEC_P2P on every sequence: below 7 bytes it raises TRUNCATED; any longer sequence is read as separator, address, command code,
id, payload and CRC; no address or preamble check is made and any id is accepted. No register is written. -/
def Obligations.DecP2pChecksInOrderAndReturnsTheFields : Prop :=
  (∀ f : Seq, decode (.request 0x31#8 [.seq f]) = .op (.decP2p f)) ∧
  (∀ (f : Seq) (s : State), f.length < 7 →
    exec (.decP2p f) s = .next { s with results := s.results ++ [.error .truncated] }) ∧
  (∀ (sep a cmd ih il : Byte) (p : Seq) (ch cl : Byte) (s : State) (f : Seq) (covered : Seq),
    f = [sep, a, cmd, ih, il] ++ p ++ [ch, cl] → covered = [sep, a, cmd, ih, il] ++ p →
    (Config.maxPayload < p.length →
      exec (.decP2p f) s = .next { s with results := s.results ++ [.error .payloadTooLong] }) ∧
    (p.length ≤ Config.maxPayload → crc16 covered ≠ ch ++ cl →
      exec (.decP2p f) s = .next { s with results := s.results ++ [.error .crcMismatch] }) ∧
    (p.length ≤ Config.maxPayload → crc16 covered = ch ++ cl → sep ≠ 0xAA#8 →
      exec (.decP2p f) s = .next { s with results := s.results ++ [.error .badSeparator] }) ∧
    (p.length ≤ Config.maxPayload → crc16 covered = ch ++ cl → sep = 0xAA#8 →
      exec (.decP2p f) s = .next { s with results := s.results ++ [.ok (some (.frame
        { preamble := none, address := a, commandCode := cmd, commandId := ih ++ il,
          payload := p, crc := ch ++ cl }))] })) ∧
  (∀ s : State, exec (.decP2p [0xAA#8, 0x05#8, 0xFA#8, 0x00#8, 0x00#8, 0x05#8, 0xD2#8]) s =
    .next { s with results := s.results ++ [.ok (some (.frame
      { preamble := none, address := 5#8, commandCode := 0xFA#8, commandId := 0#16,
        payload := [], crc := 0x05D2#16 }))] })

/-- 41_frame.md section 5, round trip in MD mode (the spec marks it "derived: from rule R82, rule R83, rule R85 and rule R86"): what ENC_MD returns,
DEC_MD in any state reads back, every field. -/
def Obligations.MdFrameRoundTrip : Prop :=
  ∀ (s : State) (a cmd : Byte) (p : Seq), a.toNat ≤ 40 → p.length ≤ Config.maxPayload →
    ∃ (t : State) (f : Seq), exec (.encMd a cmd p) s = .next t ∧ t.results = s.results ++ [.ok (some (.seq f))] ∧
      ∀ u : State, exec (.decMd f) u = .next { u with results := u.results ++ [.ok (some (.frame
        { preamble := preamble a, address := a, commandCode := cmd, commandId := s.cid, payload := p,
          crc := crc16 (cover a cmd s.cid p) }))] }

/-- 41_frame.md section 5, round trip in P2P mode (marked as derived there): no preamble and command id 0. -/
def Obligations.P2pFrameRoundTrip : Prop :=
  ∀ (s : State) (a cmd : Byte) (p : Seq), p.length ≤ Config.maxPayload →
    ∃ (t : State) (f : Seq), exec (.encP2p a cmd p) s = .next t ∧ t.results = s.results ++ [.ok (some (.seq f))] ∧
      ∀ u : State, exec (.decP2p f) u = .next { u with results := u.results ++ [.ok (some (.frame
        { preamble := none, address := a, commandCode := cmd, commandId := 0x0000#16, payload := p,
          crc := crc16 (cover a cmd 0x0000#16 p) }))] }

/-- 41_frame.md section 4, with 30_encoding.md section 2: a decoder accepts nothing but a frame. What it returns, laid out again, is what it was
given, byte for byte, and the returned CRC is that of the returned fields. -/
def Obligations.DecodersAcceptOnlyFrames : Prop :=
  (∀ (f : Seq) (s t : State) (r : Frame), exec (.decMd f) s = .next t → t.results = s.results ++ [.ok (some (.frame r))] →
    ∃ pre : Preamble, r.preamble = some pre ∧ preamble r.address = some pre ∧
      f = frameMd pre r.address r.commandCode r.commandId r.payload ∧ r.payload.length ≤ Config.maxPayload ∧
      r.crc = crc16 (cover r.address r.commandCode r.commandId r.payload)) ∧
  (∀ (f : Seq) (s t : State) (r : Frame), exec (.decP2p f) s = .next t → t.results = s.results ++ [.ok (some (.frame r))] →
    r.preamble = none ∧ f = body r.address r.commandCode r.commandId r.payload ∧
      r.payload.length ≤ Config.maxPayload ∧
      r.crc = crc16 (cover r.address r.commandCode r.commandId r.payload))

/-- 41_frame.md section 5, single-byte corruption in MD mode (marked as derived there; 90_conflicts.md C2): BAD_PREAMBLE in the preamble, CRC_MISMATCH
anywhere else. -/
def Obligations.MdSingleByteCorruptionIsDetected : Prop :=
  ∀ (pre : Preamble) (a cmd : Byte) (id : Word) (p f : Seq) (k : Nat) (b : Byte) (s : State),
    preamble a = some pre → p.length ≤ Config.maxPayload → f = frameMd pre a cmd id p → k < f.length → b ≠ byteAt f k →
    exec (.decMd (f.set k b)) s =
      .next { s with results := s.results ++ [.error (if k < 3 then .badPreamble else .crcMismatch)] }

/-- 41_frame.md section 5, single-byte corruption in P2P mode (marked as derived there): CRC_MISMATCH, wherever it is. -/
def Obligations.P2pSingleByteCorruptionIsDetected : Prop :=
  ∀ (a cmd : Byte) (p f : Seq) (k : Nat) (b : Byte) (s : State),
    p.length ≤ Config.maxPayload → f = frameP2p a cmd p → k < f.length → b ≠ byteAt f k →
    exec (.decP2p (f.set k b)) s = .next { s with results := s.results ++ [.error .crcMismatch] }

/-- 41_frame.md section 4, decode corner cases (marked as derived there): one trailing 0x00 always gives a CRC-valid longer frame, whose
payload ends in the high byte of the CRC r of the original and whose CRC is r[7:0] << 8. -/
def Obligations.TrailingZeroExtendsThePayload : Prop :=
  (∀ (pre : Preamble) (a cmd : Byte) (id r : Word) (p : Seq) (s : State), preamble a = some pre →
    p.length + 1 ≤ Config.maxPayload → r = crc16 (cover a cmd id p) →
    exec (.decMd (frameMd pre a cmd id p ++ [0x00#8])) s =
      .next { s with results := s.results ++ [.ok (some (.frame
        { preamble := some pre, address := a, commandCode := cmd, commandId := id,
          payload := p ++ [r.extractLsb' 8 8], crc := r <<< 8 }))] }) ∧
  (∀ (a cmd : Byte) (r : Word) (p : Seq) (s : State), p.length + 1 ≤ Config.maxPayload →
    r = crc16 (cover a cmd 0x0000#16 p) →
    exec (.decP2p (frameP2p a cmd p ++ [0x00#8])) s =
      .next { s with results := s.results ++ [.ok (some (.frame
        { preamble := none, address := a, commandCode := cmd, commandId := 0x0000#16,
          payload := p ++ [r.extractLsb' 8 8], crc := r <<< 8 }))] })

/-- 41_frame.md section 4, decode corner cases (marked as derived there): an MD frame never decodes with DEC_P2P. -/
def Obligations.MdFrameIsNoP2pFrame : Prop :=
  ∀ (pre : Preamble) (a cmd : Byte) (id : Word) (p : Seq) (s : State), preamble a = some pre →
    ∃ e : Error, e ∈ [Error.payloadTooLong, Error.crcMismatch, Error.badSeparator] ∧
      exec (.decP2p (frameMd pre a cmd id p)) s = .next { s with results := s.results ++ [.error e] } ∧
      (p.length + 3 ≤ Config.maxPayload → e ≠ .payloadTooLong)

/-! ## The command codes -/

/-- 30_encoding.md section 2: each command code is framed as ENC_MD and ENC_P2P frame any code: it stands at offset 5 of an MD frame and
at offset 2 of a P2P frame, and nothing else depends on it (that a command is an instruction of its own is the model's choice,
log 4). -/
def Obligations.CommandCodesAreFramedInEitherMode : Prop :=
  ∀ row ∈ [(0x02#8, Instr.phaseShifterSetDelayLineSet), (0x09#8, Instr.attenuatorSet), (0x0B#8, Instr.vipOnOff),
      (0x33#8, Instr.ppmSwitch), (0x65#8, Instr.beamQueueAppend), (0x66#8, Instr.taskReset),
      (0xC9#8, Instr.calibrationBenchMode), (0xD9#8, Instr.beamCalibrationMode), (0xFA#8, Instr.telemetryRequestP2p),
      (0xFB#8, Instr.telemetryRequestStatusProbeVariant)],
    (∀ (a : Byte) (p : Seq) (s : State) (pre : Preamble), preamble a = some pre → p.length ≤ Config.maxPayload →
      exec (row.2 .md a p) s =
        .next { s with
          cid := nextCid s.cid
          results := s.results ++ [.ok (some (.seq
            ([pre.b0, pre.b1, pre.b2, 0xAA#8, a, row.1] ++ be16 s.cid ++ p ++
              be16 (crc16 ([0xAA#8, a, row.1] ++ be16 s.cid ++ p)))))] }) ∧
    (∀ (a : Byte) (p : Seq) (s : State), p.length ≤ Config.maxPayload →
      exec (row.2 .p2p a p) s =
        .next { s with results := s.results ++ [.ok (some (.seq
          ([0xAA#8, a, row.1, 0x00#8, 0x00#8] ++ p ++ be16 (crc16 ([0xAA#8, a, row.1, 0x00#8, 0x00#8] ++ p)))))] })

/-- 60_exceptions.md section 3 for the command codes: in MD mode an address above 40 raises BAD_ADDRESS, and in either mode a payload
that is too long raises PAYLOAD_TOO_LONG; no register is written (log 4 is the model's choice). -/
def Obligations.CommandCodesRaiseLikeTheEncoders : Prop :=
  ∀ mk ∈ [Instr.phaseShifterSetDelayLineSet, Instr.attenuatorSet, Instr.vipOnOff, Instr.ppmSwitch, Instr.beamQueueAppend,
      Instr.taskReset, Instr.calibrationBenchMode, Instr.beamCalibrationMode, Instr.telemetryRequestP2p,
      Instr.telemetryRequestStatusProbeVariant],
    (∀ (a : Byte) (p : Seq) (s : State), 40 < a.toNat →
      exec (mk .md a p) s = .next { s with results := s.results ++ [.error .badAddress] }) ∧
    (∀ (a : Byte) (p : Seq) (s : State), a.toNat ≤ 40 → Config.maxPayload < p.length →
      exec (mk .md a p) s = .next { s with results := s.results ++ [.error .payloadTooLong] }) ∧
    (∀ (a : Byte) (p : Seq) (s : State), Config.maxPayload < p.length →
      exec (mk .p2p a p) s = .next { s with results := s.results ++ [.error .payloadTooLong] })

/-- 30_encoding.md section 2: no command code is treated unlike another, so asking for a frame by its command code is asking for it with the
encode request of the same mode (the event itself is the model's choice, log 5). -/
def Obligations.CommandEventIsItsEncodeRequest : Prop :=
  ∀ (code : Byte) (m : Mode) (a : Byte) (p : Seq) (s t : State) (rest : List HostEvent),
    s.pending = .command code m a p :: rest →
    t = { s with pending := .request (match m with | .md => 0x20#8 | .p2p => 0x21#8) [.u8 a, .u8 code, .seq p] :: rest } →
    step s = step t

/-! ## The whole machine -/

/-- 10_state.md section 2 (the spec marks its never-zero rule "derived: from rule R16, rule R17 and rule R20") and 41_frame.md section 4: every step
keeps CID other than 0 and every received frame record genuine. -/
def Obligations.StepKeepsTheInvariant : Prop :=
  ∀ s t : State, Inv s → step s = .next t → Inv t

/-- The invariant holds at reset (10_state.md sections 2 and 3; that no result has been received is log 1). -/
def Obligations.ResetMeetsTheInvariant : Prop := Inv State.reset

/-- 10_state.md section 2, 30_encoding.md section 2: where the invariant holds, an encoded MD frame carries the id CID held, which is not 0. -/
def Obligations.MdFrameIdIsNeverZero : Prop :=
  ∀ (s : State) (a cmd : Byte) (p : Seq), Inv s → a.toNat ≤ 40 → p.length ≤ Config.maxPayload →
    ∃ (t : State) (f : Seq), exec (.encMd a cmd p) s = .next t ∧ t.results = s.results ++ [.ok (some (.seq f))] ∧
      fromBe16 f 6 = s.cid ∧ fromBe16 f 6 ≠ 0x0000#16 ∧ t.cid ≠ 0x0000#16

/-- 10_state.md section 4, column CRC: a step that changes CRC serves reset, CRC_INIT, CRC_UPDATE or CRC_COMPUTE. -/
def Obligations.OnlyCrcOperationsAndResetChangeCrc : Prop :=
  ∀ s t : State, step s = .next t → t.crc ≠ s.crc →
    ∃ (e : HostEvent) (rest : List HostEvent), s.pending = e :: rest ∧
      (e = .reset ∨ e = .request 0x01#8 [] ∨ (∃ d : Byte, e = .request 0x02#8 [.u8 d]) ∨
        ∃ q : Seq, e = .request 0x04#8 [.seq q])

/-- 10_state.md section 4, column CID: a step that changes CID serves reset or an MD encode that succeeds, asked for by ENC_MD or by a
frame command in MD mode (log 5 for the latter). -/
def Obligations.OnlySuccessfulMdEncodesAndResetChangeCid : Prop :=
  ∀ s t : State, step s = .next t → t.cid ≠ s.cid →
    ∃ (e : HostEvent) (rest : List HostEvent), s.pending = e :: rest ∧
      (e = .reset ∨ ∃ (a cmd : Byte) (p : Seq),
        (e = .request 0x20#8 [.u8 a, .u8 cmd, .seq p] ∨ e = .command cmd .md a p) ∧
        a.toNat ≤ 40 ∧ p.length ≤ Config.maxPayload ∧ t.cid = nextCid s.cid)

/-- 60_exceptions.md section 1 and 30_encoding.md section 1: every operation, in every state, ends in exactly one result: either
status OK with its value, of the type its row gives, or one error status and no value. Earlier results and the host's pending
events stay (log 1). A command code's value is its mode's encoder's, a frame's bytes (log 4). -/
def Obligations.EveryOperationAnswersOneResult : Prop :=
  ∀ (i : Instr) (s : State), ∃ (t : State) (r : Result),
    exec i s = .next t ∧ t.results = s.results ++ [r] ∧ t.pending = s.pending ∧
      ((r.status = 0#8 ∧ ∃ v : Option Value, r = .ok v ∧ r.value = v ∧
          match i with
          | .crcInit | .crcUpdate _ => v = none
          | .crcRead | .crcCompute _ | .cidRead => ∃ w : Word, v = some (.u16 w)
          | .preSel _ => ∃ q : Seq, v = some (.seq q) ∧ q.length = 3
          | .encMd _ _ _ | .encP2p _ _ _ => ∃ q : Seq, v = some (.seq q)
          | .decMd _ | .decP2p _ => ∃ f : Frame, v = some (.frame f)
          | .phaseShifterSetDelayLineSet _ _ _ | .attenuatorSet _ _ _ | .vipOnOff _ _ _ | .ppmSwitch _ _ _
          | .beamQueueAppend _ _ _ | .taskReset _ _ _ | .calibrationBenchMode _ _ _ | .beamCalibrationMode _ _ _
          | .telemetryRequestP2p _ _ _ | .telemetryRequestStatusProbeVariant _ _ _ =>
            ∃ q : Seq, v = some (.seq q)) ∨
        (r.status ≠ 0#8 ∧ r.value = none ∧ ∃ e, r = .error e))

/-- R94: an error is precise. A failing operation leaves CRC, CID and everything else but the result it returns. -/
def Obligations.FailingOperationWritesNothing : Prop :=
  ∀ (i : Instr) (s t : State) (e : Error), exec i s = .next t → t.results = s.results ++ [.error e] →
    t = { s with results := s.results ++ [.error e] }

/-- 60_exceptions.md section 3, which operation can return which status (marked as derived there); the command codes as the encoders of
their mode (log 4). -/
def Obligations.StatusesEachOperationCanReturn : Prop :=
  ∀ (i : Instr) (s t : State) (e : Error), exec i s = .next t → t.results = s.results ++ [.error e] →
    match i with
    | .crcInit | .crcUpdate _ | .crcRead | .crcCompute _ | .cidRead => False
    | .preSel _ => e = .badAddress
    | .encMd _ _ _ => e = .badAddress ∨ e = .payloadTooLong
    | .encP2p _ _ _ => e = .payloadTooLong
    | .decMd _ => e ≠ .illegalOp
    | .decP2p _ => e = .payloadTooLong ∨ e = .truncated ∨ e = .crcMismatch ∨ e = .badSeparator
    | .phaseShifterSetDelayLineSet m _ _ | .attenuatorSet m _ _ | .vipOnOff m _ _ | .ppmSwitch m _ _
    | .beamQueueAppend m _ _ | .taskReset m _ _ | .calibrationBenchMode m _ _ | .beamCalibrationMode m _ _
    | .telemetryRequestP2p m _ _ | .telemetryRequestStatusProbeVariant m _ _ =>
      e = .payloadTooLong ∨ (m = .md ∧ e = .badAddress)

/-- R102: the status codes, 0 to 7; no other is returned, and each error has a code of its own. -/
def Obligations.StatusCodesAreNumbered : Prop :=
  (∀ v : Option Value, (Result.ok v).status = 0#8) ∧
  (Result.error .illegalOp).status = 1#8 ∧ (Result.error .badAddress).status = 2#8 ∧
  (Result.error .payloadTooLong).status = 3#8 ∧ (Result.error .truncated).status = 4#8 ∧
  (Result.error .crcMismatch).status = 5#8 ∧ (Result.error .badSeparator).status = 6#8 ∧
  (Result.error .badPreamble).status = 7#8 ∧ ∀ r : Result, r.status.toNat < 8

/-- 10_state.md section 2 and 70_reset_and_hazards.md section 3: frame operations neither read nor write CRC, so they may be interleaved with a
stream, and no operation but CID_READ and the MD encoders reads or writes CID: what such a register holds changes nothing else.
The command codes are frame operations here, and in P2P mode operations that leave CID, by the model's choice (log 4). -/
def Obligations.UntouchedRegistersDoNotMatter : Prop :=
  (∀ (i : Instr) (s t : State) (c : Word), i ≠ .crcRead → (∀ d, i ≠ .crcUpdate d) → (∀ q, i ≠ .crcCompute q) →
    i ≠ .crcInit → exec i s = .next t → t.crc = s.crc ∧ exec i { s with crc := c } = .next { t with crc := c }) ∧
  (∀ (i : Instr) (s t : State) (c : Word),
    (i = .crcInit ∨ (∃ d, i = .crcUpdate d) ∨ i = .crcRead ∨ (∃ q, i = .crcCompute q) ∨ (∃ a, i = .preSel a) ∨
      (∃ a cmd p, i = .encP2p a cmd p) ∨ (∃ f, i = .decMd f) ∨ (∃ f, i = .decP2p f) ∨
      (∃ mk ∈ [Instr.phaseShifterSetDelayLineSet, Instr.attenuatorSet, Instr.vipOnOff, Instr.ppmSwitch, Instr.beamQueueAppend,
        Instr.taskReset, Instr.calibrationBenchMode, Instr.beamCalibrationMode, Instr.telemetryRequestP2p,
        Instr.telemetryRequestStatusProbeVariant], ∃ (a : Byte) (p : Seq), i = mk .p2p a p)) →
    exec i s = .next t → t.cid = s.cid ∧ exec i { s with cid := c } = .next { t with cid := c })

/-- 20_memory.md section 3 (marked as derived there): CRC_INIT and CRC_COMPUTE repeated leave the same registers, while each ENC_MD that
succeeds changes CID. -/
def Obligations.RepeatedOperations : Prop :=
  (∀ (i : Instr) (s t u : State), (i = .crcInit ∨ ∃ q, i = .crcCompute q) → exec i s = .next t → exec i t = .next u →
    u.crc = t.crc ∧ u.cid = t.cid) ∧
  (∀ (s : State) (a cmd : Byte) (p : Seq), a.toNat ≤ 40 → p.length ≤ Config.maxPayload →
    ∃ t : State, exec (.encMd a cmd p) s = .next t ∧ t.cid ≠ s.cid)

/-- 30_encoding.md section 1, the notation: the section's three examples, and CRC_STREAM read as its expansion. -/
def Obligations.NotationReadsTheExamples : Prop :=
  assembleLine "CRC_UPDATE 0x31" = some [.crcUpdate 0x31#8] ∧
  assembleLine "ENC_MD 12, 0x66, []" = some [.encMd 0x0C#8 0x66#8 []] ∧
  assembleLine "DEC_P2P [AA 05 FA 00 00 05 D2]" =
    some [.decP2p [0xAA#8, 0x05#8, 0xFA#8, 0x00#8, 0x00#8, 0x05#8, 0xD2#8]] ∧
  assembleLine "CRC_STREAM [31 32]" = some [.crcInit, .crcUpdate 0x31#8, .crcUpdate 0x32#8, .crcRead]
end

