-- ==== Sys2Proof/Laws/Crc.lean ====
section
/-!
SUPPORT. Laws/Crc.lean: the CRC steps are linear over GF(2) and a register fed its own top bits only shifts. The laws of
40_crc.md section 3 rest on these.
-/

namespace Sys2Proof.Machine

/-- CRC_BIT is linear in the register and the data bit. -/
theorem crcBit_xor (c c' : Word) (b b' : Bool) :
    crcBit (c ^^^ c') (b ^^ b') = crcBit c b ^^^ crcBit c' b' := by
  unfold crcBit
  rw [BitVec.getLsbD_xor, BitVec.shiftLeft_xor_distrib]
  cases c.getLsbD 15 <;> cases c'.getLsbD 15 <;> cases b <;> cases b' <;>
    simp only [Bool.xor_true, Bool.xor_false, Bool.not_true, Bool.not_false, Bool.false_eq_true, if_true, if_false] <;>
    ac_nf <;> simp

/-- A register fed its own top bit only shifts. -/
theorem crcBit_own_top (c : Word) : crcBit c (c.getLsbD 15) = c <<< 1 := by
  simp [crcBit]

/-- A zero bit fed in is lost on no register: only 0 goes to 0. -/
theorem crcBit_false_eq_zero {c : Word} (h : crcBit c false = 0) : c = 0 := by
  have key : ∀ i < 16, c.getLsbD i = false := by
    have hb : ∀ i < 16, (crcBit c false).getLsbD i = false := by intro i _; rw [h]; simp
    have h0 := hb 0 (by decide)
    have htop : c.getLsbD 15 = false := by
      cases ht : c.getLsbD 15 with
      | false => rfl
      | true => simp [crcBit, ht, POLY] at h0
    intro i hi
    rcases Nat.lt_or_ge i 15 with hlt | hge
    · have := hb (i + 1) (by omega)
      rw [crcBit, htop] at this
      rw [BitVec.getLsbD_eq_getElem hi]
      simpa [BitVec.getLsbD_shiftLeft, show i + 1 < 16 by omega] using this
    · have : i = 15 := by omega
      rw [this]; exact htop
  apply BitVec.eq_of_getLsbD_eq
  intro i hi
  rw [key i hi]; simp

/-- CRC_BYTE is linear in the register and the data byte. -/
theorem crcByte_xor (c c' : Word) (d d' : Byte) :
    crcByte (c ^^^ c') (d ^^^ d') = crcByte c d ^^^ crcByte c' d' := by
  simp only [crcByte, List.foldl_cons, List.foldl_nil, BitVec.getLsbD_xor, crcBit_xor]

/-- A register fed its own high byte only shifts (the argument of R74). -/
theorem crcByte_own_high (c : Word) : crcByte c (c.extractLsb' 8 8) = c <<< 8 := by
  have step : ∀ n < 8, crcBit (c <<< n) ((c.extractLsb' 8 8).getLsbD (7 - n)) = c <<< (n + 1) := by
    intro n hn
    have hb : (c.extractLsb' 8 8).getLsbD (7 - n) = (c <<< n).getLsbD 15 := by
      simp only [BitVec.getLsbD_extractLsb', BitVec.getLsbD_shiftLeft]
      simp [show 7 - n < 8 by omega, show ¬ 15 < n by omega, show 8 + (7 - n) = 15 - n by omega]
    rw [hb, crcBit_own_top, ← BitVec.shiftLeft_add]
  have s0 := step 0 (by decide)
  simp only [BitVec.shiftLeft_zero] at s0
  simp only [crcByte, List.foldl_cons, List.foldl_nil]
  rw [s0, step 1 (by decide), step 2 (by decide), step 3 (by decide), step 4 (by decide), step 5 (by decide),
    step 6 (by decide), step 7 (by decide)]

theorem crcFrom_nil (c : Word) : crcFrom c [] = c := rfl
theorem crcFrom_cons (c : Word) (b : Byte) (q : Seq) : crcFrom c (b :: q) = crcFrom (crcByte c b) q := rfl

/-- A sequence may be fed in two parts. -/
theorem crcFrom_append (c : Word) (q r : Seq) : crcFrom c (q ++ r) = crcFrom (crcFrom c q) r := by
  simp [crcFrom, List.foldl_append]

/-- The loop is linear in the register and the bytes. -/
theorem crcFrom_xor (a b : Seq) (h : a.length = b.length) (c c' : Word) :
    crcFrom (c ^^^ c') (List.zipWith (· ^^^ ·) a b) = crcFrom c a ^^^ crcFrom c' b := by
  induction a generalizing b c c' with
  | nil => cases b with
    | nil => rfl
    | cons _ _ => simp at h
  | cons x a ih => cases b with
    | nil => simp at h
    | cons y b =>
      simp only [List.zipWith_cons_cons, crcFrom_cons, crcByte_xor]
      exact ih b (by simpa using h) _ _

end Sys2Proof.Machine
end

