-- ==== Sys2Proof/Laws/Bits.lean ====
section
/-!
SUPPORT. Laws/Bits.lean: the CRC seen bit by bit. The error-detection law of 40_crc.md section 3 is about bits, and a window of
at most 16 of them cannot bring a register from 0 back to 0 unless all are 0.
-/

namespace Sys2Proof.Machine

/-- The register after the first n bits of a bit sequence. -/
def crcBits (c : Word) (e : Nat → Bool) : Nat → Word
  | 0 => c
  | n + 1 => crcBit (crcBits c e n) (e n)

/-- Running on from bit k. -/
theorem crcBits_add (c : Word) (e : Nat → Bool) (k n : Nat) :
    crcBits c e (k + n) = crcBits (crcBits c e k) (fun j => e (k + j)) n := by
  induction n with
  | zero => rfl
  | succ n ih => rw [← Nat.add_assoc, crcBits, ih]; rfl

/-- Only the bits taken matter. -/
theorem crcBits_congr (c : Word) {e e' : Nat → Bool} {n : Nat} (h : ∀ j < n, e j = e' j) :
    crcBits c e n = crcBits c e' n := by
  induction n with
  | zero => rfl
  | succ n ih => rw [crcBits, crcBits, ih (fun j hj => h j (by omega)), h n (by omega)]

/-- The run is linear in the register and the bits. -/
theorem crcBits_xor (c c' : Word) (e e' : Nat → Bool) (n : Nat) :
    crcBits (c ^^^ c') (fun j => e j ^^ e' j) n = crcBits c e n ^^^ crcBits c' e' n := by
  induction n with
  | zero => rfl
  | succ n ih => rw [crcBits, ih, crcBit_xor]; rfl

/-- Zero bits keep 0 at 0. -/
theorem crcBits_zero (n : Nat) : crcBits 0 (fun _ => false) n = 0 := by
  induction n with
  | zero => rfl
  | succ n ih => rw [crcBits, ih]; rfl

/-- Zero bits bring only 0 to 0. -/
theorem crcBits_false_eq_zero {c : Word} {n : Nat} (h : crcBits c (fun _ => false) n = 0) : c = 0 := by
  induction n with
  | zero => exact h
  | succ n ih => exact ih (crcBit_false_eq_zero h)

/-- A register fed its own bits from the top only shifts. -/
theorem crcBits_own_top (c : Word) (n : Nat) (h : n ≤ 16) : crcBits c (fun j => c.getLsbD (15 - j)) n = c <<< n := by
  induction n with
  | zero => simp [crcBits]
  | succ n ih =>
    have hb : c.getLsbD (15 - n) = (c <<< n).getLsbD 15 := by
      rw [BitVec.getLsbD_shiftLeft]; simp [show ¬ 15 < n by omega]
    rw [crcBits, ih (by omega), hb, crcBit_own_top, ← BitVec.shiftLeft_add]

/-- Sixteen bits or fewer that bring 0 back to 0 are all 0. -/
theorem crcBits_window {e : Nat → Bool} {n : Nat} (hn : n ≤ 16) (h : crcBits 0 e n = 0) : ∀ j < n, e j = false := by
  let w : Word := BitVec.ofFnLE (fun i : Fin 16 => if 15 - i.val < n then e (15 - i.val) else false)
  have hw : ∀ j < 16, w.getLsbD (15 - j) = if j < n then e j else false := by
    intro j hj
    simp only [w, BitVec.getLsbD_ofFnLE]
    simp [show 15 - (15 - j) = j by omega, show 15 - j < 16 by omega]
  have h1 : crcBits w e n = w <<< n := by
    rw [← crcBits_own_top w n hn]
    exact crcBits_congr w (fun j hj => by rw [hw j (by omega), if_pos hj])
  have h2 : w <<< n = 0 := by
    apply BitVec.eq_of_getLsbD_eq
    intro i hi
    rw [BitVec.getLsbD_shiftLeft]
    rcases Nat.lt_or_ge i n with hin | hin
    · simp [hin]
    · have := hw (15 - (i - n)) (by omega)
      rw [show 15 - (15 - (i - n)) = i - n by omega, if_neg (by omega)] at this
      simp [this]
  have h3 := crcBits_xor w 0 e e n
  rw [h1, h2, h] at h3
  have h4 : w = 0 := by
    have : crcBits w (fun _ => false) n = 0 := by simpa using h3
    exact crcBits_false_eq_zero this
  intro j hj
  have := hw j (by omega)
  rw [if_pos hj, h4] at this
  simpa using this.symm

/-- The bits of a longer sequence, up to the shorter one's end. -/
theorem bitAt_append_left (q r : Seq) (j : Nat) (h : j < 8 * q.length) : bitAt (q ++ r) j = bitAt q j := by
  have : j / 8 < q.length := by omega
  simp [bitAt, byteAt, List.getD, List.getElem?_append_left this]

/-- The CRC of a sequence is the CRC of its bits in order (R29). -/
theorem crcFrom_eq_crcBits (c : Word) (q : Seq) : crcFrom c q = crcBits c (bitAt q) (8 * q.length) := by
  induction q using List.reverseRecOn with
  | nil => rfl
  | append_singleton q d ih =>
    have h8 : 8 * (q ++ [d]).length = 8 * q.length + 8 := by simp; omega
    rw [crcFrom_append, ih, h8, crcBits_add]
    rw [crcBits_congr c (fun j hj => bitAt_append_left q [d] j hj)]
    have hb : ∀ j < 8, bitAt (q ++ [d]) (8 * q.length + j) = d.getLsbD (7 - j) := by
      intro j hj
      have h1 : (8 * q.length + j) / 8 = q.length := by omega
      have h2 : (8 * q.length + j) % 8 = j := by omega
      simp [bitAt, byteAt, List.getD, h1, h2]
    have h0 : bitAt (q ++ [d]) (8 * q.length) = d.getLsbD 7 := hb 0 (by decide)
    simp [crcFrom, crcByte, crcBits, hb, h0]

end Sys2Proof.Machine
end

