-- ==== Sys2Proof/Laws/Bytes.lean ====
section
/-!
SUPPORT. Laws/Bytes.lean: reading and writing byte sequences (R10).
-/

namespace Sys2Proof.Machine

@[simp] theorem be16_length (v : Word) : (be16 v).length = 2 := rfl
@[simp] theorem Preamble.toSeq_length (p : Preamble) : p.toSeq.length = 3 := rfl

/-- The two bytes of BE16 put together again are the value. -/
@[simp] theorem be16_bytes (v : Word) : (v.extractLsb' 8 8 : Byte) ++ (v.extractLsb' 0 8 : Byte) = v := by
  apply BitVec.eq_of_getLsbD_eq
  intro i hi
  simp only [BitVec.getLsbD_append, BitVec.getLsbD_extractLsb']
  rcases Nat.lt_or_ge i 8 with h | h
  · simp [h]
  · simp [show ¬ i < 8 by omega, show i - 8 < 8 by omega, show 8 + (i - 8) = i by omega]

/-- BE16 is one to one. -/
theorem be16_injective {v w : Word} (h : be16 v = be16 w) : v = w := by
  simp only [be16, List.cons.injEq, and_true] at h
  rw [← be16_bytes v, ← be16_bytes w, h.1, h.2]

/-- FROMBE16 as R10 writes it: the first byte shifted left by 8, OR the second. -/
theorem fromBe16_eq_shift_or (s : Seq) (i : Nat) :
    fromBe16 s i = (byteAt s i).setWidth 16 <<< 8 ||| (byteAt s (i + 1)).setWidth 16 := by
  apply BitVec.eq_of_getLsbD_eq
  intro j hj
  simp only [fromBe16, BitVec.getLsbD_append, BitVec.getLsbD_or, BitVec.getLsbD_shiftLeft, BitVec.getLsbD_setWidth]
  rcases Nat.lt_or_ge j 8 with h | h
  · simp [h, hj]
  · simp [show ¬ j < 8 by omega, hj, show j - 8 < 16 by omega, show 8 ≤ j from h]

/-- All bytes from byte i on but the last two. -/
theorem slice_before_end (q : Seq) (x y : Byte) (i : Nat) (hq : 0 < q.length) (hi : i ≤ q.length) :
    slice (q ++ [x, y]) i ((q ++ [x, y]).length - 3) = q.drop i := by
  have : (q ++ [x, y]).length - 3 + 1 - i = (q.drop i).length := by simp; omega
  rw [slice, this, List.drop_append_of_le_length hi, List.take_left]

/-- The last two bytes. -/
theorem fromBe16_end (q : Seq) (x y : Byte) : fromBe16 (q ++ [x, y]) ((q ++ [x, y]).length - 2) = x ++ y := by
  simp [fromBe16, byteAt, List.getD]

/-- A sequence of at least two bytes ends in two bytes. -/
theorem ends_in_two (f : Seq) (h : 2 ≤ f.length) : ∃ (q : Seq) (x y : Byte), f = q ++ [x, y] := by
  refine ⟨f.take (f.length - 2), byteAt f (f.length - 2), byteAt f (f.length - 1), ?_⟩
  conv_lhs => rw [← List.take_append_drop (f.length - 2) f]
  congr 1
  apply List.ext_getElem
  · simp; omega
  · intro i h1 h2
    simp at h2
    have : i = 0 ∨ i = 1 := by omega
    rcases this with rfl | rfl
    · simp [byteAt, List.getD, List.getElem?_eq_getElem (show f.length - 2 < f.length by omega)]
    · have : f.length - 2 + 1 = f.length - 1 := by omega
      simp [byteAt, List.getD, this, List.getElem?_eq_getElem (show f.length - 1 < f.length by omega)]

end Sys2Proof.Machine
end

