-- ==== Sys2Proof/Laws/Frames.lean ====
section
/-!
SUPPORT. Laws/Frames.lean: one lemma per frame function: what the decoders answer for a sequence taken apart into its fields,
that every long enough sequence can be taken apart so, and when PRE is defined.
-/

namespace Sys2Proof.Machine

/-- PRE is defined exactly up to 40 (R56, R77). -/
theorem preamble_isSome_iff (a : Byte) : (preamble a).isSome = true ↔ a.toNat ≤ 40 := by
  unfold preamble
  split_ifs <;> simp <;> omega

theorem preamble_eq_none_iff (a : Byte) : preamble a = none ↔ 40 < a.toNat := by
  have := preamble_isSome_iff a
  cases h : preamble a <;> simp [h] at this ⊢ <;> omega

theorem preamble_of_le {a : Byte} (h : a.toNat ≤ 40) : ∃ pre, preamble a = some pre :=
  Option.isSome_iff_exists.mp ((preamble_isSome_iff a).mpr h)

theorem validMd_iff (a : Byte) : validMd a = true ↔ a.toNat ≤ 40 := preamble_isSome_iff a

theorem lenOk_iff (p : Seq) : lenOk p = true ↔ p.length ≤ Config.maxPayload := by simp [lenOk]

/-- Byte 0 of every preamble is 0x00, so an MD frame never starts with the separator (R55, R88). -/
theorem preamble_first_byte {a : Byte} {pre : Preamble} (h : preamble a = some pre) : pre.b0 = 0x00#8 := by
  unfold preamble at h
  split_ifs at h <;> simp at h <;> rw [← h]

/-- The covered bytes, byte by byte (R52). -/
theorem cover_eq (a cmd : Byte) (id : Word) (p : Seq) :
    cover a cmd id p = [SEP, a, cmd, id.extractLsb' 8 8, id.extractLsb' 0 8] ++ p := rfl

@[simp] theorem cover_length (a cmd : Byte) (id : Word) (p : Seq) : (cover a cmd id p).length = 5 + p.length := by
  simp [cover_eq]; omega

@[simp] theorem body_length (a cmd : Byte) (id : Word) (p : Seq) : (body a cmd id p).length = 7 + p.length := by
  simp [body]; omega

/-- An MD frame's length (R53). -/
@[simp] theorem frameMd_length (pre : Preamble) (a cmd : Byte) (id : Word) (p : Seq) :
    (frameMd pre a cmd id p).length = 10 + p.length := by
  simp [frameMd]; omega

/-- A P2P frame's length (R53). -/
@[simp] theorem frameP2p_length (a cmd : Byte) (p : Seq) : (frameP2p a cmd p).length = 7 + p.length := by
  simp [frameP2p]

/-- A P2P-shaped sequence in its fields: separator, address, command code, id, payload, CRC. -/
theorem body_parts (a cmd : Byte) (id : Word) (p : Seq) :
    body a cmd id p = [SEP, a, cmd, id.extractLsb' 8 8, id.extractLsb' 0 8] ++ p ++
      [(crc16 (cover a cmd id p)).extractLsb' 8 8, (crc16 (cover a cmd id p)).extractLsb' 0 8] := rfl

/-- An MD-shaped sequence in its fields: preamble, separator, address, command code, id, payload, CRC. -/
theorem frameMd_parts (pre : Preamble) (a cmd : Byte) (id : Word) (p : Seq) :
    frameMd pre a cmd id p =
      [pre.b0, pre.b1, pre.b2, SEP, a, cmd, id.extractLsb' 8 8, id.extractLsb' 0 8] ++ p ++
      [(crc16 (cover a cmd id p)).extractLsb' 8 8, (crc16 (cover a cmd id p)).extractLsb' 0 8] := rfl

/-- Every sequence of at least 10 bytes has the shape of an MD frame. -/
theorem md_parts_of_length {f : Seq} (h : 10 ≤ f.length) :
    ∃ (x0 x1 x2 sep a cmd ih il : Byte) (p : Seq) (ch cl : Byte),
      f = [x0, x1, x2, sep, a, cmd, ih, il] ++ p ++ [ch, cl] := by
  obtain ⟨q, ch, cl, rfl⟩ := ends_in_two f (by omega)
  match q, h with
  | x0 :: x1 :: x2 :: sep :: a :: cmd :: ih :: il :: p, _ => exact ⟨x0, x1, x2, sep, a, cmd, ih, il, p, ch, cl, rfl⟩
  | [], h | [_], h | [_, _], h | [_, _, _], h | [_, _, _, _], h | [_, _, _, _, _], h | [_, _, _, _, _, _], h
  | [_, _, _, _, _, _, _], h => simp at h

/-- Every sequence of at least 7 bytes has the shape of a P2P frame. -/
theorem p2p_parts_of_length {f : Seq} (h : 7 ≤ f.length) :
    ∃ (sep a cmd ih il : Byte) (p : Seq) (ch cl : Byte), f = [sep, a, cmd, ih, il] ++ p ++ [ch, cl] := by
  obtain ⟨q, ch, cl, rfl⟩ := ends_in_two f (by omega)
  match q, h with
  | sep :: a :: cmd :: ih :: il :: p, _ => exact ⟨sep, a, cmd, ih, il, p, ch, cl, rfl⟩
  | [], h | [_], h | [_, _], h | [_, _, _], h | [_, _, _, _], h => simp at h

/-- What DEC_MD answers for a sequence in the shape of an MD frame. -/
theorem decodeMd_parts (x0 x1 x2 sep a cmd ih il : Byte) (p : Seq) (ch cl : Byte) :
    decodeMd ([x0, x1, x2, sep, a, cmd, ih, il] ++ p ++ [ch, cl]) =
      if Config.maxPayload < p.length then .error .payloadTooLong
      else if crc16 ([sep, a, cmd, ih, il] ++ p) ≠ ch ++ cl then .error .crcMismatch
      else if sep ≠ SEP then .error .badSeparator
      else match preamble a with
        | none => .error .badAddress
        | some pre =>
          if (⟨x0, x1, x2⟩ : Preamble) ≠ pre then .error .badPreamble
          else .ok { preamble := some ⟨x0, x1, x2⟩, address := a, commandCode := cmd, commandId := ih ++ il,
                     payload := p, crc := ch ++ cl } := by
  have hlen : ([x0, x1, x2, sep, a, cmd, ih, il] ++ p ++ [ch, cl]).length = 10 + p.length := by simp; omega
  have h3 := slice_before_end ([x0, x1, x2, sep, a, cmd, ih, il] ++ p) ch cl 3 (by simp) (by simp)
  have h8 := slice_before_end ([x0, x1, x2, sep, a, cmd, ih, il] ++ p) ch cl 8 (by simp) (by simp)
  unfold decodeMd
  rw [h3, h8, fromBe16_end, hlen]
  simp only [mdOverhead, show ¬ (10 + p.length < 10) by omega, if_false, Nat.add_sub_cancel_left]
  rfl

/-- What DEC_P2P answers for a sequence in the shape of a P2P frame. -/
theorem decodeP2p_parts (sep a cmd ih il : Byte) (p : Seq) (ch cl : Byte) :
    decodeP2p ([sep, a, cmd, ih, il] ++ p ++ [ch, cl]) =
      if Config.maxPayload < p.length then .error .payloadTooLong
      else if crc16 ([sep, a, cmd, ih, il] ++ p) ≠ ch ++ cl then .error .crcMismatch
      else if sep ≠ SEP then .error .badSeparator
      else .ok { preamble := none, address := a, commandCode := cmd, commandId := ih ++ il,
                 payload := p, crc := ch ++ cl } := by
  have hlen : ([sep, a, cmd, ih, il] ++ p ++ [ch, cl]).length = 7 + p.length := by simp; omega
  have h0 := slice_before_end ([sep, a, cmd, ih, il] ++ p) ch cl 0 (by simp) (by simp)
  have h5 := slice_before_end ([sep, a, cmd, ih, il] ++ p) ch cl 5 (by simp) (by simp)
  unfold decodeP2p
  rw [h0, h5, fromBe16_end, hlen]
  simp only [p2pOverhead, show ¬ (7 + p.length < 7) by omega, if_false, Nat.add_sub_cancel_left]
  rfl

end Sys2Proof.Machine
end

