-- ==== Sys2Proof/Laws/State.lean ====
section
/-!
SUPPORT. Laws/State.lean: what each update of State leaves in each field.
-/

namespace Sys2Proof.Machine

@[simp] theorem State.setCrc_crc (s : State) (v : Word) : (s.setCrc v).crc = v := rfl
@[simp] theorem State.setCrc_cid (s : State) (v : Word) : (s.setCrc v).cid = s.cid := rfl
@[simp] theorem State.setCrc_pending (s : State) (v : Word) : (s.setCrc v).pending = s.pending := rfl
@[simp] theorem State.setCrc_results (s : State) (v : Word) : (s.setCrc v).results = s.results := rfl

@[simp] theorem State.setCid_crc (s : State) (v : Word) : (s.setCid v).crc = s.crc := rfl
@[simp] theorem State.setCid_cid (s : State) (v : Word) : (s.setCid v).cid = v := rfl
@[simp] theorem State.setCid_pending (s : State) (v : Word) : (s.setCid v).pending = s.pending := rfl
@[simp] theorem State.setCid_results (s : State) (v : Word) : (s.setCid v).results = s.results := rfl

@[simp] theorem State.receive_crc (s : State) (r : Result) : (s.receive r).crc = s.crc := rfl
@[simp] theorem State.receive_cid (s : State) (r : Result) : (s.receive r).cid = s.cid := rfl
@[simp] theorem State.receive_pending (s : State) (r : Result) : (s.receive r).pending = s.pending := rfl
@[simp] theorem State.receive_results (s : State) (r : Result) : (s.receive r).results = s.results ++ [r] := rfl

@[simp] theorem State.withPending_crc (s : State) (es : List HostEvent) : (s.withPending es).crc = s.crc := rfl
@[simp] theorem State.withPending_cid (s : State) (es : List HostEvent) : (s.withPending es).cid = s.cid := rfl
@[simp] theorem State.withPending_pending (s : State) (es : List HostEvent) : (s.withPending es).pending = es := rfl
@[simp] theorem State.withPending_results (s : State) (es : List HostEvent) :
    (s.withPending es).results = s.results := rfl

end Sys2Proof.Machine
end

