-- ==== Sys2Proof/Laws/Ops.lean ====
section
/-!
SUPPORT. Laws/Ops.lean: one lemma per shared operation: all it can do when it answers a next state; and one for a step.
-/

namespace Sys2Proof.Machine

/-- `return v` adds an OK result and nothing else. -/
theorem ret_next {v : Option Value} {s t : State} (h : ret v s = .next t) : t = s.receive (.ok v) := by
  simpa [ret] using h.symm

/-- `raise E` adds an error result and nothing else. -/
theorem raise_next {e : Error} {s t : State} (h : raise e s = .next t) : t = s.receive (.error e) := by
  simpa [raise] using h.symm

/-- All that the MD encoder can do. -/
theorem encodeMd_cases (a cmd : Byte) (p : Seq) (s : State) :
    (40 < a.toNat ∧ encodeMd a cmd p s = .next (s.receive (.error .badAddress))) ∨
    (a.toNat ≤ 40 ∧ Config.maxPayload < p.length ∧ encodeMd a cmd p s = .next (s.receive (.error .payloadTooLong))) ∨
    (∃ pre, preamble a = some pre ∧ a.toNat ≤ 40 ∧ p.length ≤ Config.maxPayload ∧
      encodeMd a cmd p s =
        .next ((s.setCid (nextCid s.cid)).receive (.ok (some (.seq (frameMd pre a cmd s.cid p)))))) := by
  rcases Nat.lt_or_ge 40 a.toNat with h | h
  · exact .inl ⟨h, by simp [encodeMd, (preamble_eq_none_iff a).mpr h, raise]⟩
  · obtain ⟨pre, hpre⟩ := preamble_of_le h
    rcases Nat.lt_or_ge Config.maxPayload p.length with hp | hp
    · refine .inr (.inl ⟨h, hp, ?_⟩)
      have : lenOk p = false := by simpa [lenOk] using hp
      simp [encodeMd, hpre, this, raise]
    · refine .inr (.inr ⟨pre, hpre, h, hp, ?_⟩)
      simp [encodeMd, hpre, (lenOk_iff p).mpr hp, ret]

/-- All that the P2P encoder can do. -/
theorem encodeP2p_cases (a cmd : Byte) (p : Seq) (s : State) :
    (Config.maxPayload < p.length ∧ encodeP2p a cmd p s = .next (s.receive (.error .payloadTooLong))) ∨
    (p.length ≤ Config.maxPayload ∧
      encodeP2p a cmd p s = .next (s.receive (.ok (some (.seq (frameP2p a cmd p)))))) := by
  rcases Nat.lt_or_ge Config.maxPayload p.length with hp | hp
  · have : lenOk p = false := by simpa [lenOk] using hp
    exact .inl ⟨hp, by simp [encodeP2p, this, raise]⟩
  · exact .inr ⟨hp, by simp [encodeP2p, (lenOk_iff p).mpr hp, ret]⟩

/-- A decode adds one result and writes no register. -/
theorem answerDecode_cases (r : Except Error Frame) (s : State) :
    (∃ f, r = .ok f ∧ answerDecode r s = .next (s.receive (.ok (some (.frame f))))) ∨
    (∃ e, r = .error e ∧ answerDecode r s = .next (s.receive (.error e))) := by
  cases r with
  | ok f => exact .inl ⟨f, rfl, rfl⟩
  | error e => exact .inr ⟨e, rfl, rfl⟩

/-- All that a step can do. -/
theorem step_cases {s t : State} (h : step s = .next t) :
    (s.pending = [] ∧ t = s) ∨
    (∃ e rest, s.pending = e :: rest ∧
      ((∃ i, decode e = .op i ∧ exec i (s.withPending rest) = .next t) ∨
       (decode e = .illegalOp ∧ t = (s.withPending rest).receive (.error .illegalOp)) ∨
       (decode e = .reset ∧ t = ((s.withPending rest).setCrc SEED).setCid firstCid))) := by
  unfold step at h
  cases hp : s.pending with
  | nil => rw [hp] at h; exact .inl ⟨rfl, by simpa [idle] using h.symm⟩
  | cons e rest =>
    rw [hp] at h
    refine .inr ⟨e, rest, rfl, ?_⟩
    cases hd : decode e with
    | op i => simp only [hd] at h; exact .inl ⟨i, rfl, h⟩
    | illegalOp => simp only [hd] at h; exact .inr (.inl ⟨rfl, raise_next h⟩)
    | illTyped => simp [hd, refuseIllTyped] at h
    | reset => simp only [hd] at h; exact .inr (.inr ⟨rfl, by simpa [resetBlock] using h.symm⟩)

end Sys2Proof.Machine
end

