-- ==== Sys2Proof/Laws/PerInstr.lean ====
section
/-!
SUPPORT. Laws/PerInstr.lean: the event that encodes an instruction is a well-formed one (R43, R45), instruction by instruction.
-/

namespace Sys2Proof.Laws.EncodedEventWellFormed

/-- The op byte of the encoding is listed and its operands match its row; or it is a frame command. -/
def Statement (i : Instr) : Prop := (encode i).wellFormed = true

theorem crcInit : Statement .crcInit := rfl
theorem crcUpdate (d : Byte) : Statement (.crcUpdate d) := rfl
theorem crcRead : Statement .crcRead := rfl
theorem crcCompute (s : Seq) : Statement (.crcCompute s) := rfl
theorem preSel (a : Byte) : Statement (.preSel a) := rfl
theorem cidRead : Statement .cidRead := rfl
theorem encMd (a cmd : Byte) (p : Seq) : Statement (.encMd a cmd p) := rfl
theorem encP2p (a cmd : Byte) (p : Seq) : Statement (.encP2p a cmd p) := rfl
theorem decMd (f : Seq) : Statement (.decMd f) := rfl
theorem decP2p (f : Seq) : Statement (.decP2p f) := rfl
theorem phaseShifterSetDelayLineSet (m : Mode) (a : Byte) (p : Seq) : Statement (.phaseShifterSetDelayLineSet m a p) := rfl
theorem attenuatorSet (m : Mode) (a : Byte) (p : Seq) : Statement (.attenuatorSet m a p) := rfl
theorem vipOnOff (m : Mode) (a : Byte) (p : Seq) : Statement (.vipOnOff m a p) := rfl
theorem ppmSwitch (m : Mode) (a : Byte) (p : Seq) : Statement (.ppmSwitch m a p) := rfl
theorem beamQueueAppend (m : Mode) (a : Byte) (p : Seq) : Statement (.beamQueueAppend m a p) := rfl
theorem taskReset (m : Mode) (a : Byte) (p : Seq) : Statement (.taskReset m a p) := rfl
theorem calibrationBenchMode (m : Mode) (a : Byte) (p : Seq) : Statement (.calibrationBenchMode m a p) := rfl
theorem beamCalibrationMode (m : Mode) (a : Byte) (p : Seq) : Statement (.beamCalibrationMode m a p) := rfl
theorem telemetryRequestP2p (m : Mode) (a : Byte) (p : Seq) : Statement (.telemetryRequestP2p m a p) := rfl
theorem telemetryRequestStatusProbeVariant (m : Mode) (a : Byte) (p : Seq) :
    Statement (.telemetryRequestStatusProbeVariant m a p) := rfl

end Sys2Proof.Laws.EncodedEventWellFormed
end

