-- ==== Sys2Proof/Tests/Slice0.lean ====
section
/-!
SUPPORT. Tests/Slice0.lean: the model against the spec's own vectors (95_test_vectors.md, W and V rows, programs P1 to P5), words written out
from 30_encoding.md, what the checks refuse, and a witness for the hypotheses of each statement. Expected values are the spec's.
-/

namespace Sys2Proof.Tests

open Sys2Proof Sys2Proof.Machine

/-- A state with the given registers, and events still to come. -/
def at_ (crc cid : Word) (es : List HostEvent := []) : State :=
  { crc := crc, cid := cid, pending := es, results := [] }

/-- The registers and the results after an outcome. -/
def after (o : Out) : Option (Word × Word × List Result) :=
  match o with
  | .next s => some (s.crc, s.cid, s.results)
  | .fault _ => none
  | .refused _ => none

/-- The registers and the last result after an outcome. -/
def lastOf (o : Out) : Option (Word × Word × Option Result) :=
  match o with
  | .next s => some (s.crc, s.cid, s.results.getLast?)
  | .fault _ => none
  | .refused _ => none

/-- An operation from reset's registers but for CID. -/
def fromCid (cid : Word) (i : Instr) : Option (Word × Word × List Result) := after (exec i (at_ SEED cid))

/-! ## What the checks refuse (R45, R46) -/

theorem test_wellFormed_refuses_illegal_op : (HostEvent.request 0x05#8 []).wellFormed = false := by decide
theorem test_wellFormed_refuses_too_few : (HostEvent.request 0x20#8 [.u8 1#8, .u8 2#8]).wellFormed = false := by decide
theorem test_wellFormed_refuses_too_many : (HostEvent.request 0x01#8 [.u8 1#8]).wellFormed = false := by decide
theorem test_wellFormed_refuses_wrong_type : (HostEvent.request 0x02#8 [.seq []]).wellFormed = false := by decide
theorem test_answered_refuses_wrong_type : (HostEvent.request 0x04#8 [.u8 1#8]).answered = false := by decide
theorem test_answered_takes_illegal_op : (HostEvent.request 0xFF#8 [.u8 1#8]).answered = true := by decide

/-! ## Decoding: words written out from R42, R43 and R58 -/

/-- Op byte fam 0x0, mem 0x2, then d. -/
theorem test_decode_crc_update : decode (.request 0b00000010#8 [.u8 0x31#8]) = .op (.crcUpdate 0x31#8) := by decide
/-- Op byte fam 0x0, mem 0x4, then s. -/
theorem test_decode_crc_compute : decode (.request 0b00000100#8 [.seq [0x00#8]]) = .op (.crcCompute [0x00#8]) := by decide
/-- Op byte fam 0x1, mem 0x0, then a (program P2, row 6). -/
theorem test_decode_pre_sel : decode (.request 0b00010000#8 [.u8 0x28#8]) = .op (.preSel 40#8) := by decide
/-- Op byte fam 0x2, mem 0x0, then a, cmd, p (program P2, row 3). -/
theorem test_decode_enc_md : decode (.request 0b00100000#8 [.u8 0x28#8, .u8 0x0B#8, .seq [0x12#8, 0x34#8]]) =
    .op (.encMd 40#8 0x0B#8 [0x12#8, 0x34#8]) := by decide
/-- Op byte fam 0x2, mem 0x1: mem[0] = 1 is P2P (program P1, row 15). -/
theorem test_decode_enc_p2p : decode (.request 0b00100001#8 [.u8 0x05#8, .u8 0xFA#8, .seq []]) =
    .op (.encP2p 5#8 0xFA#8 []) := by decide
/-- Op byte fam 0x3, mem 0x0 and mem 0x1. -/
theorem test_decode_decoders : decode (.request 0b00110000#8 [.seq [0xAA#8]]) = .op (.decMd [0xAA#8]) ∧
    decode (.request 0b00110001#8 [.seq [0xAA#8]]) = .op (.decP2p [0xAA#8]) := by decide
/-- Command code 0b01100110 (R58), to unit 12 in MD mode; a code outside R58 is a plain encode (R59). -/
theorem test_decode_commands : decode (.command 0b01100110#8 .md 12#8 []) = .op (.taskReset .md 12#8 []) ∧
    decode (.command 0b11001001#8 .p2p 1#8 [1#8]) = .op (.calibrationBenchMode .p2p 1#8 [1#8]) ∧
    decode (.command 0b01100111#8 .p2p 1#8 []) = .op (.encP2p 1#8 0x67#8 []) := by decide

/-- The words of opcode_table.json, row by row; of the two rows with byte 0x02 it is read as the op byte (log 6). -/
theorem test_table_words :
    [0x01, 0x02, 0x03, 0x04, 0x10, 0x11, 0x20, 0x21, 0x30, 0x31].map (decodeTableWord 8) =
      [some .crcInit, some (.crcUpdate 0#8), some .crcRead, some (.crcCompute []), some (.preSel 0#8), some .cidRead,
       some (.encMd 0#8 0#8 []), some (.encP2p 0#8 0#8 []), some (.decMd []), some (.decP2p [])] ∧
    [0x09, 0x0B, 0x33, 0x65, 0x66, 0xC9, 0xD9, 0xFA, 0xFB].map (decodeTableWord 8) =
      [some (.attenuatorSet .md 0#8 []), some (.vipOnOff .md 0#8 []), some (.ppmSwitch .md 0#8 []),
       some (.beamQueueAppend .md 0#8 []), some (.taskReset .md 0#8 []), some (.calibrationBenchMode .md 0#8 []),
       some (.beamCalibrationMode .md 0#8 []), some (.telemetryRequestP2p .md 0#8 []),
       some (.telemetryRequestStatusProbeVariant .md 0#8 [])] ∧
    decodeTableWord 8 0x05 = none := by decide

/-- Bytes above the first are operands, first byte lowest: CRC_UPDATE 0x31, and ENC_MD 0x0C, 0x66, [01]. -/
theorem test_table_word_operands : decodeTableWord 16 0x3102 = some (.crcUpdate 0x31#8) ∧
    decodeTableWord 32 0x01660C20 = some (.encMd 0x0C#8 0x66#8 [0x01#8]) := by decide

/-- From reset, the first step runs the word put before it: V-Q3, and TASK_RESET to unit 0 (the frame of V-E2). -/
theorem test_fetch_word_runs_first :
    after (step (State.reset.withFetchWord 8 0x03)) = some (0x1D0F#16, 0x0001#16, [.ok (some (.u16 0x1D0F#16))]) ∧
    after (step (State.reset.withFetchWord 8 0x66)) = some (0x1D0F#16, 0x0002#16, [.ok (some (.seq
      [0x00#8, 0xFF#8, 0x00#8, 0xAA#8, 0x00#8, 0x66#8, 0x00#8, 0x01#8, 0xA4#8, 0xEE#8]))]) := by decide +kernel

/-! ## The CRC (V-C) -/

theorem test_crcBit_vectors :
    crcBit 0x1D0F#16 false = 0x3A1E#16 ∧ crcBit 0x1D0F#16 true = 0x2A3F#16 ∧ crcBit 0x8000#16 false = 0x1021#16 ∧
    crcBit 0x8000#16 true = 0x0000#16 ∧ crcBit 0x0000#16 true = 0x1021#16 ∧ crcBit 0x0000#16 false = 0x0000#16 ∧
    crcBit 0xFFFF#16 true = 0xFFFE#16 ∧ crcBit 0xFFFF#16 false = 0xEFDF#16 := by decide

theorem test_crcByte_vectors :
    crcByte 0x0000#16 0x00#8 = 0x0000#16 ∧ crcByte 0x0000#16 0x01#8 = 0x1021#16 ∧ crcByte 0xFFFF#16 0xFF#8 = 0xFF00#16 ∧
    crcByte 0x1D0F#16 0x31#8 = 0xEAEE#16 ∧ crcByte 0x1D0F#16 0x1D#8 = 0x0F00#16 ∧ crcByte 0xE5CC#16 0xE5#8 = 0xCC00#16 := by
  decide +kernel

theorem test_crc16_vectors :
    crc16 [] = 0x1D0F#16 ∧ crc16 [0x80#8] = 0x5D14#16 ∧ crc16 [0xFF#8] = 0xD26C#16 ∧ crc16 [0x41#8] = 0x9479#16 ∧
    crc16 [0xFF#8, 0xFF#8] = 0x99CF#16 ∧ crc16 [0x1D#8, 0x0F#8] = 0x0000#16 ∧
    crc16 [0x31#8, 0x32#8, 0x33#8, 0x34#8, 0x35#8, 0x36#8, 0x37#8, 0x38#8, 0x39#8] = 0xE5CC#16 ∧
    crc16 [0xAA#8, 0x0C#8, 0x66#8, 0x00#8, 0x01#8] = 0xEBDC#16 := by decide +kernel

/-- V-Q8: CRC_INIT from CRC = E5CC. -/
theorem test_crc_init : after (exec .crcInit (at_ 0xE5CC#16 0x0001#16)) = some (0x1D0F#16, 0x0001#16, [.ok none]) := by decide
/-- P1, rows 12 and 13: the register's own bytes bring it to 0. -/
theorem test_crc_update : after (exec (.crcUpdate 0xE5#8) (at_ 0xE5CC#16 0x0001#16)) = some (0xCC00#16, 0x0001#16, [.ok none]) ∧
    after (exec (.crcUpdate 0xCC#8) (at_ 0xCC00#16 0x0001#16)) = some (0x0000#16, 0x0001#16, [.ok none]) := by decide +kernel
/-- V-Q3. -/
theorem test_crc_read : after (exec .crcRead State.reset) = some (0x1D0F#16, 0x0001#16, [.ok (some (.u16 0x1D0F#16))]) := by
  decide
/-- P1, row 16: CRC_COMPUTE [] from CRC = 0. -/
theorem test_crc_compute : after (exec (.crcCompute []) (at_ 0x0000#16 0x0001#16)) =
    some (0x1D0F#16, 0x0001#16, [.ok (some (.u16 0x1D0F#16))]) := by decide

/-! ## Queries (V-P, V-Q) -/

theorem test_pre_sel_vectors :
    [0, 1, 8, 9, 12, 16, 17, 24, 25, 32, 33, 40, 41, 255].map (fun n => preamble (BitVec.ofNat 8 n)) =
      [some ⟨0x00#8, 0xFF#8, 0x00#8⟩, some ⟨0x00#8, 0x10#8, 0xEF#8⟩, some ⟨0x00#8, 0x10#8, 0xEF#8⟩,
       some ⟨0x00#8, 0x12#8, 0xED#8⟩, some ⟨0x00#8, 0x12#8, 0xED#8⟩, some ⟨0x00#8, 0x12#8, 0xED#8⟩,
       some ⟨0x00#8, 0x14#8, 0xEB#8⟩, some ⟨0x00#8, 0x14#8, 0xEB#8⟩, some ⟨0x00#8, 0x16#8, 0xE9#8⟩,
       some ⟨0x00#8, 0x16#8, 0xE9#8⟩, some ⟨0x00#8, 0x18#8, 0xE7#8⟩, some ⟨0x00#8, 0x18#8, 0xE7#8⟩, none, none] := by decide
theorem test_pre_sel : fromCid 4#16 (.preSel 40#8) = some (SEED, 4#16, [.ok (some (.seq [0x00#8, 0x18#8, 0xE7#8]))]) ∧
    fromCid 4#16 (.preSel 41#8) = some (SEED, 4#16, [.error .badAddress]) := by decide
/-- V-Q1 and V-Q2. -/
theorem test_cid_read : fromCid 1#16 .cidRead = some (SEED, 1#16, [.ok (some (.u16 0x0001#16))]) ∧
    fromCid 2#16 .cidRead = some (SEED, 2#16, [.ok (some (.u16 0x0002#16))]) := by decide

/-! ## Encoding (V-E) -/

/-- V-E1 and V-E6 (the wrap). -/
theorem test_enc_md_and_wrap :
    fromCid 0x0001#16 (.encMd 12#8 0x66#8 []) = some (SEED, 0x0002#16, [.ok (some (.seq
      [0x00#8, 0x12#8, 0xED#8, 0xAA#8, 0x0C#8, 0x66#8, 0x00#8, 0x01#8, 0xEB#8, 0xDC#8]))]) ∧
    fromCid 0xFFFF#16 (.encMd 12#8 0x66#8 []) = some (SEED, 0x0001#16, [.ok (some (.seq
      [0x00#8, 0x12#8, 0xED#8, 0xAA#8, 0x0C#8, 0x66#8, 0xFF#8, 0xFF#8, 0xE6#8, 0xF2#8]))]) := by decide +kernel
/-- V-E7 (a payload, and the last MD address) and V-E13. -/
theorem test_enc_md_payload_and_bad_address :
    fromCid 0x0100#16 (.encMd 40#8 0x0B#8 [0x12#8, 0x34#8]) = some (SEED, 0x0101#16, [.ok (some (.seq
      [0x00#8, 0x18#8, 0xE7#8, 0xAA#8, 0x28#8, 0x0B#8, 0x01#8, 0x00#8, 0x12#8, 0x34#8, 0x9F#8, 0xF4#8]))]) ∧
    fromCid 0x0001#16 (.encMd 41#8 0x66#8 []) = some (SEED, 0x0001#16, [.error .badAddress]) := by decide +kernel
/-- V-E17, and V-E16 (address 44 is valid in P2P). -/
theorem test_enc_p2p :
    fromCid 0x0001#16 (.encP2p 200#8 0x0B#8 [0x01#8]) = some (SEED, 0x0001#16, [.ok (some (.seq
      [0xAA#8, 0xC8#8, 0x0B#8, 0x00#8, 0x00#8, 0x01#8, 0x69#8, 0xBF#8]))]) ∧
    fromCid 0x0001#16 (.encP2p 44#8 0x66#8 []) = some (SEED, 0x0001#16, [.ok (some (.seq
      [0xAA#8, 0x2C#8, 0x66#8, 0x00#8, 0x00#8, 0xCC#8, 0xB3#8]))]) := by decide +kernel
set_option maxRecDepth 20000 in
/-- V-E11 and V-E18: the CRCs of the two frames with 99 zero payload bytes. -/
theorem test_frames_of_99_bytes :
    crc16 ([0xAA#8, 1#8, 0x09#8, 0x00#8, 0x01#8] ++ List.replicate 99 0#8) = 0x4836#16 ∧
    crc16 ([0xAA#8, 7#8, 0x09#8, 0x00#8, 0x00#8] ++ List.replicate 99 0#8) = 0xD8C2#16 := by decide +kernel

/-! ## The command codes, in the frames of V-E rows that carry them -/

/-- V-E8: code 0x65. -/
theorem test_beam_queue_append : fromCid 7#16 (.beamQueueAppend .md 1#8
      [0x01#8, 0x00#8, 0x02#8, 0x00#8, 0xE8#8, 0x03#8, 0x00#8, 0x00#8, 0x01#8]) = some (SEED, 8#16, [.ok (some (.seq
    [0x00#8, 0x10#8, 0xEF#8, 0xAA#8, 0x01#8, 0x65#8, 0x00#8, 0x07#8, 0x01#8, 0x00#8, 0x02#8, 0x00#8, 0xE8#8, 0x03#8, 0x00#8,
     0x00#8, 0x01#8, 0x60#8, 0xD6#8]))]) := by decide +kernel
/-- V-E9: code 0x33. -/
theorem test_ppm_switch : fromCid 1#16 (.ppmSwitch .md 3#8 (List.replicate 25 0#8)) = some (SEED, 2#16, [.ok (some (.seq
    ([0x00#8, 0x10#8, 0xEF#8, 0xAA#8, 0x03#8, 0x33#8, 0x00#8, 0x01#8] ++ List.replicate 25 0#8 ++ [0x2C#8, 0x9F#8])))]) := by
  decide +kernel
/-- V-E10: code 0xD9. -/
theorem test_beam_calibration_mode : fromCid 0x1234#16 (.beamCalibrationMode .md 33#8 []) = some (SEED, 0x1235#16, [.ok (some (.seq
    [0x00#8, 0x18#8, 0xE7#8, 0xAA#8, 0x21#8, 0xD9#8, 0x12#8, 0x34#8, 0x34#8, 0x3D#8]))]) := by decide +kernel
/-- V-E19: code 0xC9. -/
theorem test_calibration_bench_mode : fromCid 1#16 (.calibrationBenchMode .md 33#8 [1#8, 2#8, 3#8, 4#8, 5#8, 6#8]) =
    some (SEED, 2#16, [.ok (some (.seq [0x00#8, 0x18#8, 0xE7#8, 0xAA#8, 0x21#8, 0xC9#8, 0x00#8, 0x01#8,
      0x01#8, 0x02#8, 0x03#8, 0x04#8, 0x05#8, 0x06#8, 0x1C#8, 0x73#8]))]) := by decide +kernel
/-- V-E21: code 0x0B. V-E17 in P2P mode. -/
theorem test_vip_on_off : fromCid 3#16 (.vipOnOff .md 40#8 [0x12#8, 0x34#8]) = some (SEED, 4#16, [.ok (some (.seq
      [0x00#8, 0x18#8, 0xE7#8, 0xAA#8, 0x28#8, 0x0B#8, 0x00#8, 0x03#8, 0x12#8, 0x34#8, 0xB0#8, 0x10#8]))]) ∧
    fromCid 3#16 (.vipOnOff .p2p 200#8 [0x01#8]) = some (SEED, 3#16, [.ok (some (.seq
      [0xAA#8, 0xC8#8, 0x0B#8, 0x00#8, 0x00#8, 0x01#8, 0x69#8, 0xBF#8]))]) := by decide +kernel
/-- V-E3: code 0x66. V-E15: code 0xFA. -/
theorem test_task_reset_and_telemetry : fromCid 2#16 (.taskReset .md 12#8 []) = some (SEED, 3#16, [.ok (some (.seq
      [0x00#8, 0x12#8, 0xED#8, 0xAA#8, 0x0C#8, 0x66#8, 0x00#8, 0x02#8, 0xDB#8, 0xBF#8]))]) ∧
    fromCid 2#16 (.telemetryRequestP2p .p2p 5#8 []) = some (SEED, 2#16, [.ok (some (.seq
      [0xAA#8, 0x05#8, 0xFA#8, 0x00#8, 0x00#8, 0x05#8, 0xD2#8]))]) := by decide +kernel
/-- The command-code byte of the three codes no vector carries (R50, R58), at offset 2 of a P2P frame. -/
theorem test_other_command_codes :
    (lastOf (exec (.phaseShifterSetDelayLineSet .p2p 5#8 []) State.reset)).map (fun t => t.2.2.map fun r =>
      match r with | .ok (some (.seq f)) => byteAt f 2 | _ => 0#8) = some (some 0x02#8) ∧
    (lastOf (exec (.attenuatorSet .p2p 5#8 []) State.reset)).map (fun t => t.2.2.map fun r =>
      match r with | .ok (some (.seq f)) => byteAt f 2 | _ => 0#8) = some (some 0x09#8) ∧
    (lastOf (exec (.telemetryRequestStatusProbeVariant .p2p 5#8 []) State.reset)).map (fun t => t.2.2.map fun r =>
      match r with | .ok (some (.seq f)) => byteAt f 2 | _ => 0#8) = some (some 0xFB#8) := by decide +kernel

/-! ## Decoding frames (V-D) -/

/-- V-D1 and V-D13 (one trailing 00). -/
theorem test_dec_md_accepts :
    fromCid 1#16 (.decMd [0x00#8, 0x12#8, 0xED#8, 0xAA#8, 0x0C#8, 0x66#8, 0x00#8, 0x01#8, 0xEB#8, 0xDC#8]) =
      some (SEED, 1#16, [.ok (some (.frame ⟨some ⟨0x00#8, 0x12#8, 0xED#8⟩, 12#8, 0x66#8, 1#16, [], 0xEBDC#16⟩))]) ∧
    fromCid 1#16 (.decMd [0x00#8, 0x12#8, 0xED#8, 0xAA#8, 0x0C#8, 0x66#8, 0x00#8, 0x01#8, 0xEB#8, 0xDC#8, 0x00#8]) =
      some (SEED, 1#16, [.ok (some (.frame ⟨some ⟨0x00#8, 0x12#8, 0xED#8⟩, 12#8, 0x66#8, 1#16, [0xEB#8], 0xDC00#16⟩))]) := by
  decide +kernel
/-- V-D2, P5 row 2, V-D4, V-D5, V-D6: each error of DEC_MD but PAYLOAD_TOO_LONG. -/
theorem test_dec_md_errors :
    [[0x00#8, 0x12#8, 0xED#8, 0xAA#8, 0x0C#8, 0x66#8, 0x00#8, 0x01#8, 0xEB#8],
     [0x00#8, 0x12#8, 0xED#8, 0xAA#8, 0x0C#8, 0x67#8, 0x00#8, 0x01#8, 0xEB#8, 0xDC#8],
     [0x00#8, 0x12#8, 0xED#8, 0xAB#8, 0x0C#8, 0x66#8, 0x00#8, 0x01#8, 0x41#8, 0x8D#8],
     [0x00#8, 0x18#8, 0xE7#8, 0xAA#8, 0x29#8, 0x66#8, 0x00#8, 0x01#8, 0x60#8, 0xD7#8],
     [0x00#8, 0x10#8, 0xEF#8, 0xAA#8, 0x0C#8, 0x66#8, 0x00#8, 0x01#8, 0xEB#8, 0xDC#8]].map (fun f => fromCid 1#16 (.decMd f)) =
    [Error.truncated, .crcMismatch, .badSeparator, .badAddress, .badPreamble].map
      (fun e => some (SEED, 1#16, [Result.error e])) := by decide +kernel
/-- V-D11 (an id other than 0) and V-D12. -/
theorem test_dec_p2p_accepts :
    fromCid 1#16 (.decP2p [0xAA#8, 0x05#8, 0xFA#8, 0x12#8, 0x34#8, 0x16#8, 0x14#8]) =
      some (SEED, 1#16, [.ok (some (.frame ⟨none, 5#8, 0xFA#8, 0x1234#16, [], 0x1614#16⟩))]) ∧
    fromCid 1#16 (.decP2p [0xAA#8, 0x01#8, 0x66#8, 0x00#8, 0x00#8, 0x00#8, 0xAA#8, 0xAB#8, 0x6A#8]) =
      some (SEED, 1#16, [.ok (some (.frame ⟨none, 1#8, 0x66#8, 0#16, [0x00#8, 0xAA#8], 0xAB6A#16⟩))]) := by decide +kernel
/-- V-D9, V-D14, V-D10: each error of DEC_P2P but PAYLOAD_TOO_LONG. -/
theorem test_dec_p2p_errors :
    [[0xAA#8, 0x05#8, 0xFA#8, 0x00#8, 0x00#8], [0xAA#8, 0x05#8, 0xFA#8, 0x00#8, 0x00#8, 0x05#8, 0xD3#8],
     [0x55#8, 0x05#8, 0x66#8, 0x00#8, 0x00#8, 0x00#8, 0x5F#8, 0xB7#8]].map (fun f => fromCid 1#16 (.decP2p f)) =
    [Error.truncated, .crcMismatch, .badSeparator].map (fun e => some (SEED, 1#16, [Result.error e])) := by decide +kernel

/-! ## Steps -/

/-- V-Q4 to V-Q7 and the ends of R46's ranges: an illegal op byte. -/
theorem test_illegal_op_bytes :
    ∀ op ∈ [0x00#8, 0x05#8, 0x0F#8, 0x12#8, 0x1F#8, 0x22#8, 0x2F#8, 0x32#8, 0xFF#8],
      after (step (at_ SEED 2#16 [.request op []])) = some (SEED, 2#16, [.error .illegalOp]) := by decide
/-- Too few operands, too many, and a wrong type are refused (R45). -/
theorem test_ill_typed_requests_refused :
    step (at_ SEED 1#16 [.request 0x02#8 []]) = .refused .illTypedRequest ∧
    step (at_ SEED 1#16 [.request 0x03#8 [.u8 0#8]]) = .refused .illTypedRequest ∧
    step (at_ SEED 1#16 [.request 0x30#8 [.u8 0#8]]) = .refused .illTypedRequest := ⟨rfl, rfl, rfl⟩
/-- Reset from CRC = E5CC, CID = 1234 (R107). -/
theorem test_reset_event : after (step (at_ 0xE5CC#16 0x1234#16 [.reset])) = some (0x1D0F#16, 0x0001#16, []) := by decide
/-- P5, rows 1 to 3, through steps. -/
theorem test_program_p5_begins : after (stepTimes 3 (at_ SEED 1#16
      [.request 0x20#8 [.u8 0x0C#8, .u8 0x66#8, .seq []],
       .request 0x30#8 [.seq [0x00#8, 0x12#8, 0xED#8, 0xAA#8, 0x0C#8, 0x67#8, 0x00#8, 0x01#8, 0xEB#8, 0xDC#8]],
       .request 0x30#8 [.seq [0x00#8, 0x10#8, 0xED#8, 0xAA#8, 0x0C#8, 0x66#8, 0x00#8, 0x01#8, 0xEB#8, 0xDC#8]]])) =
    some (SEED, 2#16, [.ok (some (.seq
      [0x00#8, 0x12#8, 0xED#8, 0xAA#8, 0x0C#8, 0x66#8, 0x00#8, 0x01#8, 0xEB#8, 0xDC#8])), .error .crcMismatch,
      .error .badPreamble]) := by decide +kernel
/-- R47's quoted string, and P1's rows as CRC_STREAM's expansion. -/
theorem test_assembly_quoted : assemble ["CRC_STREAM \"12\"", "PRE_SEL 40"] =
    some [.request 0x01#8 [], .request 0x02#8 [.u8 0x31#8], .request 0x02#8 [.u8 0x32#8], .request 0x03#8 [],
      .request 0x10#8 [.u8 40#8]] := by decide +kernel
theorem test_assembly_rejects : assembleLine "CRC_UPDATE 256" = none ∧ assembleLine "CRC_UPDATE" = none ∧
    assembleLine "ENC_MD 12 0x66" = none ∧ assembleLine "NOP" = none := by decide +kernel

/-! ## Witnesses: for each statement with hypotheses, operands and states that meet them -/

/-- A payload of 99 bytes is never too long (R6). -/
theorem witness_payload_of_99 : (List.replicate 99 0#8 : Seq).length ≤ Config.maxPayload := by simp [Config.maxPayload]
/-- The longest payload accepted, and the shortest refused. -/
theorem witness_payload_bounds : (∃ p : Seq, p.length = Config.maxPayload) ∧ ∃ p : Seq, p.length = Config.maxPayload + 1 :=
  ⟨⟨List.replicate Config.maxPayload 0#8, by simp⟩, ⟨List.replicate (Config.maxPayload + 1) 0#8, by simp⟩⟩

theorem witness_DecodeAndEncodeAgree :
    decode (.request 0x31#8 [.seq [1#8]]) = .op (.decP2p [1#8]) ∧
    decode (.command 0xFB#8 .md 1#8 []) = .op (.telemetryRequestStatusProbeVariant .md 1#8 []) ∧
    decode (.command 0xFC#8 .md 1#8 []) = .op (.encMd 1#8 0xFC#8 []) := by decide
/-- Both clauses, at the ends of the ranges. -/
theorem witness_IllegalOpBytesRaiseIllegalOp :
    (at_ SEED 1#16 [.request 0x0F#8 [.u8 1#8]]).pending = .request 0x0F#8 [.u8 1#8] :: [] ∧
    (∀ n ∈ [0x00, 0x05, 0x0F, 0x12, 0x1F, 0x22, 0x2F, 0x32, 0xFF],
      (n = 0x00 ∨ (0x05 ≤ n ∧ n ≤ 0x0F) ∨ (0x12 ≤ n ∧ n ≤ 0x1F) ∨ (0x22 ≤ n ∧ n ≤ 0x2F) ∨ (0x32 ≤ n ∧ n ≤ 0xFF))) ∧
    (∀ n ∈ [0x01, 0x04, 0x10, 0x11, 0x20, 0x21, 0x30, 0x31],
      ¬(n = 0x00 ∨ (0x05 ≤ n ∧ n ≤ 0x0F) ∨ (0x12 ≤ n ∧ n ≤ 0x1F) ∨ (0x22 ≤ n ∧ n ≤ 0x2F) ∨ (0x32 ≤ n ∧ n ≤ 0xFF))) := by
  decide
/-- The lengths: a payload and two frames one byte too long, frames of 9 and 6 bytes; address 40 with the payload. -/
theorem witness_MismatchedOperandsAreRefused :
    (at_ SEED 1#16 [.request 0x20#8 [.u8 1#8, .seq []]]).pending = [.request 0x20#8 [.u8 1#8, .seq []]] ∧
    [Operand.u8 1#8, .seq []].map Operand.kind ≠ [.u8, .u8, .seq] ∧
    [Operand.u8 1#8, .u8 2#8, .seq []].map Operand.kind = [.u8, .u8, .seq] ∧ (40#8).toNat ≤ 40 ∧
    (∀ n : Nat, ∃ p : Seq, n + Config.maxPayload < p.length) ∧
    (List.replicate 9 0#8).length < 10 ∧ (List.replicate 6 0#8).length < 7 :=
  ⟨rfl, by decide, by decide, by decide, fun n => ⟨List.replicate (n + Config.maxPayload + 1) 0#8, by simp⟩, by decide, by decide⟩
theorem witness_StepRunsTheDecodedInstruction :
    (at_ SEED 1#16 [.request 0x03#8 [], .reset]).pending = .request 0x03#8 [] :: [.reset] ∧
    decode (.request 0x03#8 []) = .op .crcRead := by decide
theorem witness_OperationsTakeEffectInIssueOrder :
    (at_ SEED 1#16 [.request 0x01#8 [], .command 0x66#8 .md 1#8 [], .reset]).pending =
      [Instr.crcInit, .taskReset .md 1#8 []].map encode ++ [.reset] := by decide
theorem witness_ResetEventWritesBothRegisters : (State.powerOn.withPending [.reset]).pending = .reset :: [] := rfl
theorem witness_ResetValuesServeTheFirstOperations :
    (40#8).toNat ≤ 40 ∧ (List.replicate 99 0#8 : Seq).length ≤ Config.maxPayload := ⟨by decide, witness_payload_of_99⟩
theorem witness_StepGoesOnForEveryAnsweredEvent :
    (at_ SEED 1#16 [.request 0xFF#8 [], .request 0x11#8 [], .reset]).hostAnswered = true ∧
    step (at_ SEED 1#16 [.request 0x11#8 [.u8 1#8]]) = .refused .illTypedRequest := ⟨rfl, rfl⟩
theorem witness_CrcIsAffine : ([1#8, 2#8] : Seq).length = ([3#8, 4#8] : Seq).length := rfl
theorem witness_BurstsOfSixteenBitsAreDetected :
    ([0x1C#8, 0x0F#8] : Seq).length = ([] : Seq).length + 2 ∧ ([0x1C#8, 0x0F#8] : Seq) ≠ [] ++ be16 (crc16 []) ∧
    ∀ j : Nat, bitAt [0x1C#8, 0x0F#8] j ≠ bitAt ([] ++ be16 (crc16 [])) j → 0 ≤ j ∧ j < 0 + 16 := by
  refine ⟨rfl, by decide, fun j hj => ⟨Nat.zero_le j, ?_⟩⟩
  by_contra h
  obtain ⟨k, hk⟩ : ∃ k, j / 8 = k + 2 := ⟨j / 8 - 2, by omega⟩
  exact hj (by simp [bitAt, byteAt, hk, be16])
theorem witness_NextIdIncrementsAndWrapsToOne : (0xFFFE#16 : Word) ≠ 0xFFFF#16 := by decide
theorem witness_CidReadReturnsTheCounter : Inv State.reset ∧ (∃ t, exec .cidRead State.reset = .next t) ∧ (0#8).toNat ≤ 40 :=
  ⟨⟨by decide, by simp [State.reset]⟩, ⟨_, rfl⟩, by decide⟩
theorem witness_SuccessiveFramesCarrySuccessiveIds :
    ∀ o ∈ [((40#8 : Byte), (0x66#8 : Byte), ([] : Seq)), (0#8, 0x09#8, List.replicate 99 0#8)],
      o.1.toNat ≤ 40 ∧ o.2.2.length ≤ Config.maxPayload := by
  simp [Config.maxPayload]
/-- Each group's first and last address. -/
theorem witness_PreambleBytesAreComplementary :
    ∀ g ∈ [1, 2, 3, 4, 5], ∀ a ∈ [8 * g - 7, 8 * g], 8 * g - 7 ≤ (BitVec.ofNat 8 a).toNat ∧ (BitVec.ofNat 8 a).toNat ≤ 8 * g ∧
      (preamble (BitVec.ofNat 8 a)).isSome = true := by decide
/-- The ends of the table's ranges. -/
theorem witness_PreambleFollowsTheTable :
    ∀ n ∈ [0, 1, 8, 9, 16, 17, 24, 25, 32, 33, 40, 41, 255], (BitVec.ofNat 8 n).toNat = n := by decide
theorem witness_PreSelReturnsThePreambleOrRaises : 40 < (41#8).toNat ∧ (40#8).toNat ≤ 40 := by decide
/-- A payload too long with a valid address, and with an invalid one (the first check wins). -/
theorem witness_EncMdBuildsTheFrameAndAdvancesTheId :
    40 < (41#8).toNat ∧ (40#8).toNat ≤ 40 ∧ (∃ p : Seq, Config.maxPayload < p.length) ∧
    (∃ p : Seq, p.length = Config.maxPayload) ∧ State.reset.cid = 0x0001#16 :=
  ⟨by decide, by decide, ⟨List.replicate (Config.maxPayload + 1) 0#8, by simp⟩, witness_payload_bounds.1, rfl⟩
theorem witness_EncP2pBuildsTheFrameAndLeavesTheId :
    (∃ p : Seq, Config.maxPayload < p.length) ∧ ∃ p : Seq, p.length ≤ Config.maxPayload :=
  ⟨⟨List.replicate (Config.maxPayload + 1) 0#8, by simp⟩, ⟨[], by simp⟩⟩
theorem witness_MdFrameLayout : preamble 12#8 = some ⟨0x00#8, 0x12#8, 0xED#8⟩ ∧
    ∃ f : Seq, f = frameMd ⟨0x00#8, 0x12#8, 0xED#8⟩ 12#8 0x66#8 1#16 [] ∧ 10 = f.length := ⟨rfl, _, rfl, rfl⟩
theorem witness_P2pFrameLayout : ∃ f : Seq, f = frameP2p 5#8 0xFA#8 [] ∧ 7 = f.length := ⟨_, rfl, rfl⟩
/-- One sequence for each clause: V-D2 (9 bytes), a payload one too long, P5 row 2, V-D4, V-D5, V-D6, V-D1. -/
theorem witness_DecMdChecksInOrderAndReturnsTheFields :
    ([0x00#8, 0x12#8, 0xED#8, 0xAA#8, 0x0C#8, 0x66#8, 0x00#8, 0x01#8, 0xEB#8] : Seq).length < 10 ∧
    (∃ p : Seq, Config.maxPayload < p.length) ∧ ([] : Seq).length ≤ Config.maxPayload ∧
    crc16 ([0xAA#8, 0x0C#8, 0x67#8, 0x00#8, 0x01#8] ++ []) ≠ (0xEB#8 ++ 0xDC#8 : BitVec (8 + 8)) ∧
    (crc16 ([0xAB#8, 0x0C#8, 0x66#8, 0x00#8, 0x01#8] ++ []) = (0x41#8 ++ 0x8D#8 : BitVec (8 + 8)) ∧ 0xAB#8 ≠ 0xAA#8) ∧
    (crc16 ([0xAA#8, 0x29#8, 0x66#8, 0x00#8, 0x01#8] ++ []) = (0x60#8 ++ 0xD7#8 : BitVec (8 + 8)) ∧ 40 < (0x29#8).toNat) ∧
    (crc16 ([0xAA#8, 0x0C#8, 0x66#8, 0x00#8, 0x01#8] ++ []) = (0xEB#8 ++ 0xDC#8 : BitVec (8 + 8)) ∧ (0x0C#8).toNat ≤ 40 ∧
      preamble 0x0C#8 ≠ some ⟨0x00#8, 0x10#8, 0xEF#8⟩ ∧ preamble 0x0C#8 = some ⟨0x00#8, 0x12#8, 0xED#8⟩) :=
  ⟨by decide, ⟨List.replicate (Config.maxPayload + 1) 0#8, by simp⟩, by simp, by decide +kernel, by decide +kernel,
    by decide +kernel, by decide +kernel⟩
/-- One sequence for each clause: V-D9, a payload one too long, V-D14, V-D10, V-D8. -/
theorem witness_DecP2pChecksInOrderAndReturnsTheFields :
    ([0xAA#8, 0x05#8, 0xFA#8, 0x00#8, 0x00#8] : Seq).length < 7 ∧ (∃ p : Seq, Config.maxPayload < p.length) ∧
    ([0x00#8] : Seq).length ≤ Config.maxPayload ∧
    crc16 ([0xAA#8, 0x05#8, 0xFA#8, 0x00#8, 0x00#8] ++ []) ≠ (0x05#8 ++ 0xD3#8 : BitVec (8 + 8)) ∧
    (crc16 ([0x55#8, 0x05#8, 0x66#8, 0x00#8, 0x00#8] ++ [0x00#8]) = (0x5F#8 ++ 0xB7#8 : BitVec (8 + 8)) ∧ 0x55#8 ≠ 0xAA#8) ∧
    crc16 ([0xAA#8, 0x05#8, 0xFA#8, 0x00#8, 0x00#8] ++ []) = (0x05#8 ++ 0xD2#8 : BitVec (8 + 8)) :=
  ⟨by decide, ⟨List.replicate (Config.maxPayload + 1) 0#8, by simp⟩, by simp [Config.maxPayload], by decide +kernel,
    by decide +kernel, by decide +kernel⟩
theorem witness_MdFrameRoundTrip : (40#8).toNat ≤ 40 ∧ ([0x12#8, 0x34#8] : Seq).length ≤ Config.maxPayload :=
  ⟨by decide, by simp [Config.maxPayload]⟩
theorem witness_P2pFrameRoundTrip : (List.replicate 99 0#8 : Seq).length ≤ Config.maxPayload := witness_payload_of_99
theorem witness_DecodersAcceptOnlyFrames :
    (lastOf (exec (.decMd [0x00#8, 0x12#8, 0xED#8, 0xAA#8, 0x0C#8, 0x66#8, 0x00#8, 0x01#8, 0xEB#8, 0xDC#8]) State.reset)).map
      (fun t => t.2.2) = some (some (.ok (some (.frame ⟨some ⟨0x00#8, 0x12#8, 0xED#8⟩, 12#8, 0x66#8, 1#16, [], 0xEBDC#16⟩)))) ∧
    (lastOf (exec (.decP2p [0xAA#8, 0x05#8, 0xFA#8, 0x00#8, 0x00#8, 0x05#8, 0xD2#8]) State.reset)).map
      (fun t => t.2.2) = some (some (.ok (some (.frame ⟨none, 5#8, 0xFA#8, 0#16, [], 0x05D2#16⟩)))) := by decide +kernel
/-- The last preamble byte, the first covered byte and the last CRC byte of V-E1's frame, each replaced. -/
theorem witness_MdSingleByteCorruptionIsDetected :
    preamble 12#8 = some ⟨0x00#8, 0x12#8, 0xED#8⟩ ∧ ([] : Seq).length ≤ Config.maxPayload ∧
    ∀ k ∈ [2, 3, 9], k < (frameMd ⟨0x00#8, 0x12#8, 0xED#8⟩ 12#8 0x66#8 1#16 []).length ∧
      0xFF#8 ≠ byteAt (frameMd ⟨0x00#8, 0x12#8, 0xED#8⟩ 12#8 0x66#8 1#16 []) k := by decide +kernel
theorem witness_P2pSingleByteCorruptionIsDetected : ([] : Seq).length ≤ Config.maxPayload ∧
    ∀ k ∈ [0, 6], k < (frameP2p 5#8 0xFA#8 []).length ∧ 0xFF#8 ≠ byteAt (frameP2p 5#8 0xFA#8 []) k := by decide +kernel
theorem witness_TrailingZeroExtendsThePayload : preamble 12#8 = some ⟨0x00#8, 0x12#8, 0xED#8⟩ ∧
    (List.replicate 98 0#8 : Seq).length + 1 ≤ Config.maxPayload := ⟨rfl, by simp [Config.maxPayload]⟩
theorem witness_MdFrameIsNoP2pFrame : preamble 40#8 = some ⟨0x00#8, 0x18#8, 0xE7#8⟩ ∧
    (List.replicate 96 0#8 : Seq).length + 3 ≤ Config.maxPayload := ⟨rfl, by simp [Config.maxPayload]⟩
theorem witness_CommandCodesAreFramedInEitherMode : preamble 0#8 = some ⟨0x00#8, 0xFF#8, 0x00#8⟩ ∧
    (List.replicate 99 0#8 : Seq).length ≤ Config.maxPayload := ⟨rfl, witness_payload_of_99⟩
theorem witness_CommandCodesRaiseLikeTheEncoders : 40 < (41#8).toNat ∧ (40#8).toNat ≤ 40 ∧
    ∃ p : Seq, Config.maxPayload < p.length := ⟨by decide, by decide, ⟨List.replicate (Config.maxPayload + 1) 0#8, by simp⟩⟩
theorem witness_CommandEventIsItsEncodeRequest :
    (at_ SEED 1#16 [.command 0x66#8 .md 12#8 [], .reset]).pending = .command 0x66#8 .md 12#8 [] :: [.reset] := rfl
theorem witness_StepKeepsTheInvariant : Inv (at_ SEED 1#16 [.request 0x20#8 [.u8 1#8, .u8 2#8, .seq []]]) ∧
    ∃ t, step (at_ SEED 1#16 [.request 0x20#8 [.u8 1#8, .u8 2#8, .seq []]]) = .next t :=
  ⟨⟨by decide, by simp [at_]⟩, ⟨_, rfl⟩⟩
theorem witness_MdFrameIdIsNeverZero : Inv (at_ SEED 0xFFFF#16) ∧ (40#8).toNat ≤ 40 ∧ ([] : Seq).length ≤ Config.maxPayload :=
  ⟨⟨by decide, by simp [at_]⟩, by decide, by simp⟩
theorem witness_OnlyCrcOperationsAndResetChangeCrc : ∃ t, step (at_ SEED 1#16 [.request 0x02#8 [.u8 0#8]]) = .next t ∧
    t.crc ≠ (at_ SEED 1#16 [.request 0x02#8 [.u8 0#8]]).crc := ⟨_, rfl, by decide +kernel⟩
theorem witness_OnlySuccessfulMdEncodesAndResetChangeCid : ∃ t, step (at_ SEED 1#16 [.command 0x66#8 .md 1#8 []]) = .next t ∧
    t.cid ≠ (at_ SEED 1#16 [.command 0x66#8 .md 1#8 []]).cid := ⟨_, rfl, by decide⟩
theorem witness_FailingOperationWritesNothing : ∃ t, exec (.encMd 41#8 0x66#8 []) State.reset = .next t ∧
    t.results = State.reset.results ++ [.error .badAddress] := ⟨_, rfl, rfl⟩
/-- An operation of each row that can fail: PRE_SEL, ENC_MD, DEC_MD, DEC_P2P and a command; a payload too long in P2P. -/
theorem witness_StatusesEachOperationCanReturn :
    (∀ i ∈ [Instr.preSel 41#8, .encMd 41#8 0#8 [], .decMd [], .decP2p [], .taskReset .md 41#8 []],
      ∃ e, after (exec i State.reset) = some (SEED, firstCid, [.error e])) ∧
    ∃ p t, exec (.encP2p 0#8 0#8 p) State.reset = .next t ∧ t.results = State.reset.results ++ [.error .payloadTooLong] := by
  constructor
  · intro i hi
    simp only [List.mem_cons, List.not_mem_nil, or_false] at hi
    rcases hi with rfl | rfl | rfl | rfl | rfl
    · exact ⟨.badAddress, rfl⟩
    · exact ⟨.badAddress, rfl⟩
    · exact ⟨.truncated, rfl⟩
    · exact ⟨.truncated, rfl⟩
    · exact ⟨.badAddress, rfl⟩
  · refine ⟨List.replicate (Config.maxPayload + 1) 0#8, State.reset.receive (.error .payloadTooLong), ?_, rfl⟩
    simp only [exec, execEncP2p, encodeIn, encodeP2p]
    rw [if_neg (by simp [lenOk])]
    rfl
theorem witness_UntouchedRegistersDoNotMatter :
    (∃ t, exec (.encMd 1#8 2#8 []) State.reset = .next t) ∧ (∃ t, exec (.crcCompute [1#8]) State.reset = .next t) ∧
    ∃ t, exec (.taskReset .p2p 41#8 []) State.reset = .next t :=
  ⟨⟨_, rfl⟩, ⟨_, rfl⟩, ⟨_, rfl⟩⟩
theorem witness_RepeatedOperations :
    (∃ t u, exec (.crcCompute [1#8]) State.reset = .next t ∧ exec (.crcCompute [1#8]) t = .next u) ∧ (40#8).toNat ≤ 40 :=
  ⟨⟨_, _, rfl, rfl⟩, by decide⟩

end Sys2Proof.Tests
end

section
/-!
Proofs, family 10_state.md: what NEXT does to the counter, what the CRC operations and a successful ENC_MD leave behind, and
the two obligations about the registers (O23, O9) from these.
-/

namespace Sys2Proof.Machine

/-! ## The counter -/

theorem nextCid_of_max : nextCid 0xFFFF#16 = firstCid := rfl

theorem nextCid_of_ne {v : Word} (h : v ≠ 0xFFFF#16) : nextCid v = v + 1#16 := if_neg h

/-- Below the maximum the addition does not wrap. -/
theorem nextCid_toNat_of_ne {v : Word} (h : v ≠ 0xFFFF#16) : (nextCid v).toNat = v.toNat + 1 := by
  rw [nextCid_of_ne h]
  bv_omega

/-- R17: an id is never 0, since the only value whose successor would wrap goes to 1 instead. -/
theorem nextCid_ne_zero (v : Word) : nextCid v ≠ 0x0000#16 := by
  by_cases h : v = 0xFFFF#16
  · subst h
    decide
  · intro h0
    have hsucc : (nextCid v).toNat = v.toNat + 1 := nextCid_toNat_of_ne h
    simp [h0] at hsucc

/-- Settles O23: NEXT by its two branches. -/
theorem nextIdIncrementsAndWrapsToOne : Obligations.NextIdIncrementsAndWrapsToOne :=
  ⟨nextCid_of_max, fun v => ⟨nextCid_toNat_of_ne, nextCid_ne_zero v⟩⟩

/-! ## Sequences of CRC operations -/

theorem exec_crcInit (s : State) :
    exec .crcInit s = .next { s with crc := SEED, results := s.results ++ [.ok none] } := rfl

theorem exec_crcUpdate (d : Byte) (s : State) :
    exec (.crcUpdate d) s = .next { s with crc := crcByte s.crc d, results := s.results ++ [.ok none] } := rfl

theorem execAll_nil (s : State) : execAll [] s = .next s := rfl

/-- R35: a sequence goes on from the state its first operation leaves. -/
theorem execAll_cons_of_next {i : Instr} {s t : State} (h : exec i s = .next t) (is : List Instr) :
    execAll (i :: is) s = execAll is t := by
  rw [execAll, h, andThen]

/-- R70: one CRC_UPDATE per byte runs R67's loop from the CRC at hand, and each adds a result without a value. -/
theorem execAll_map_crcUpdate (q : Seq) (s : State) :
    execAll (q.map Instr.crcUpdate) s =
      .next { s with crc := crcFrom s.crc q, results := s.results ++ List.replicate q.length (.ok none) } := by
  induction q generalizing s with
  | nil => simp [execAll_nil, crcFrom_nil]
  | cons d q ih =>
    rw [List.map_cons, execAll_cons_of_next (exec_crcUpdate d s), ih]
    simp [crcFrom_cons, List.replicate_succ]

/-- R72: CRC_INIT and one CRC_UPDATE per byte leave the CRC of the bytes, whatever CRC held. -/
theorem execAll_crcInit_crcUpdates (q : Seq) (s : State) :
    execAll (.crcInit :: q.map Instr.crcUpdate) s =
      .next { s with crc := crc16 q, results := s.results ++ List.replicate (q.length + 1) (.ok none) } := by
  rw [execAll_cons_of_next (exec_crcInit s), execAll_map_crcUpdate]
  simp [crc16, List.replicate_succ]

/-! ## A successful ENC_MD -/

/-- R49: the id of an MD frame stands in its bytes 6 and 7. -/
theorem fromBe16_frameMd (pre : Preamble) (a cmd : Byte) (id : Word) (p : Seq) :
    fromBe16 (frameMd pre a cmd id p) 6 = id := be16_bytes id

/-- R82: with a defined preamble and a payload within MAX_PAYLOAD, ENC_MD returns the frame with the id CID holds and
advances CID. -/
theorem exec_encMd_of_valid {a : Byte} {p : Seq} (ha : a.toNat ≤ 40) (hp : p.length ≤ Config.maxPayload)
    (cmd : Byte) (s : State) :
    ∃ pre, preamble a = some pre ∧ exec (.encMd a cmd p) s =
      .next ((s.setCid (nextCid s.cid)).receive (.ok (some (.seq (frameMd pre a cmd s.cid p))))) := by
  rcases encodeMd_cases a cmd p s with ⟨hbad, _⟩ | ⟨_, hlong, _⟩ | ⟨pre, hpre, _, _, hnext⟩
  · omega
  · omega
  · exact ⟨pre, hpre, hnext⟩

/-! ## The reset values -/

/-- R20: right after reset CRC already holds what CRC_INIT would write. -/
theorem crc_after_stream_from_reset (q : Seq) : crcFrom State.reset.crc q = crc16 q := rfl

/-- Settles O9: both streams end with the CRC of their bytes, and the first MD frame carries the id reset left in CID. -/
theorem resetValuesServeTheFirstOperations : Obligations.ResetValuesServeTheFirstOperations := by
  refine ⟨rfl, rfl, fun q => ?stream, fun a cmd p ha hp => ?firstFrame⟩
  case stream =>
    exact ⟨_, _, execAll_map_crcUpdate q State.reset, execAll_crcInit_crcUpdates q State.reset,
      crc_after_stream_from_reset q⟩
  case firstFrame =>
    obtain ⟨pre, _, hexec⟩ := exec_encMd_of_valid ha hp cmd State.reset
    exact ⟨_, frameMd pre a cmd State.reset.cid p, hexec, rfl, fromBe16_frameMd pre a cmd State.reset.cid p⟩

end Sys2Proof.Machine
end

section
/-!
Proofs, family 20_memory.md: the order in which the CRC takes bits and bytes (O12).
-/

namespace Sys2Proof.Machine

/-- R29: bit 7 of a byte goes into the CRC first, bit 0 last. -/
theorem crcByte_eq_bits_msb_first (c : Word) (d : Byte) :
    crcByte c d =
      crcBit (crcBit (crcBit (crcBit (crcBit (crcBit (crcBit (crcBit c (d.getLsbD 7)) (d.getLsbD 6)) (d.getLsbD 5))
        (d.getLsbD 4)) (d.getLsbD 3)) (d.getLsbD 2)) (d.getLsbD 1)) (d.getLsbD 0) := by
  simp only [crcByte, List.foldl_cons, List.foldl_nil]

/-- R67: the loop of crc16 starts from SEED. -/
theorem crc16_eq_crcFrom_seed (q : Seq) : crc16 q = crcFrom 0x1D0F#16 q := rfl

/-- Settles O12: the bits of one byte, the recursion over a sequence's bytes, and the start value. -/
theorem crcTakesBytesInOrderAndBitsMsbFirst : Obligations.CrcTakesBytesInOrderAndBitsMsbFirst :=
  ⟨crcByte_eq_bits_msb_first, fun c b q => ⟨crcFrom_nil c, crcFrom_cons c b q⟩, crc16_eq_crcFrom_seed⟩

end Sys2Proof.Machine
end

section
/-!
Proofs, family 30_encoding.md: the op byte's fields and the requests the decoder refuses (O5, O4), the preamble table (O26),
and the frames' layouts by byte offsets (O31, O32).
-/

namespace Sys2Proof

open Sys2Proof.Machine

/-! ## Op bytes (R42, R43) -/

/-- An op byte that selects an operation stands with it in a row of R43. -/
theorem mem_opTable_of_opCodeOf {op : Byte} {c : OpCode} (h : opCodeOf op = some c) : (op, c) ∈ opTable := by
  obtain ⟨before, after, htable, _⟩ := List.lookup_eq_some_iff.mp h
  simp [htable]

/-- The op bytes that select an operation are R43's first column. -/
theorem opCodeOf_isSome_iff (op : Byte) : (opCodeOf op).isSome = true ↔ op ∈ opTable.map Prod.fst := by
  rw [Option.isSome_iff_ne_none, opCodeOf, ne_eq, List.lookup_eq_none_iff]
  simp

/-- Settles O5: an op byte outside R43 selects nothing, and the fields of the ten others are read off row by row. -/
theorem opByteFieldsNameFamilyAndMode : Obligations.OpByteFieldsNameFamilyAndMode := by
  intro op
  refine ⟨opCodeOf_isSome_iff op, ?_⟩
  cases hop : opCodeOf op with
  | none => trivial
  | some c =>
    have hrow : (op, c) ∈ opTable := mem_opTable_of_opCodeOf hop
    simp only [opTable, List.mem_cons, Prod.mk.injEq, List.not_mem_nil, or_false] at hrow
    rcases hrow with ⟨rfl, rfl⟩ | ⟨rfl, rfl⟩ | ⟨rfl, rfl⟩ | ⟨rfl, rfl⟩ | ⟨rfl, rfl⟩ | ⟨rfl, rfl⟩ | ⟨rfl, rfl⟩ |
      ⟨rfl, rfl⟩ | ⟨rfl, rfl⟩ | ⟨rfl, rfl⟩ <;> decide

/-! ## Operands (R40, R45) -/

theorem Operand.kind_eq_u8_iff {o : Operand} : o.kind = .u8 ↔ ∃ v, o = .u8 v := by
  cases o <;> simp [Operand.kind]

theorem Operand.kind_eq_seq_iff {o : Operand} : o.kind = .seq ↔ ∃ q, o = .seq q := by
  cases o <;> simp [Operand.kind]

/-- The operand types in each operation's row of R43. -/
def OpCode.operandKinds : OpCode → List OperandKind
  | .crcInit | .crcRead | .cidRead => []
  | .crcUpdate | .preSel => [.u8]
  | .crcCompute | .decMd | .decP2p => [.seq]
  | .encMd | .encP2p => [.u8, .u8, .seq]

/-- They are what the model's own check of requests reads off the op byte. -/
theorem requestRow_of_opCodeOf {op : Byte} {c : OpCode} (h : opCodeOf op = some c) :
    requestRow op = some c.operandKinds := by
  have hrows : ∀ row ∈ opTable, requestRow row.1 = some row.2.operandKinds := by decide
  exact hrows (op, c) (mem_opTable_of_opCodeOf h)

/-- Operands that make an instruction have the types of the operation's row. -/
theorem map_kind_of_withOperands {c : OpCode} {os : List Operand} {i : Instr} (h : withOperands c os = some i) :
    os.map Operand.kind = c.operandKinds := by
  unfold withOperands at h
  split at h
  case h_11 => cases h
  all_goals rfl

/-- Operands of the types of the operation's row make an instruction, whatever their values and lengths. -/
theorem withOperands_of_map_kind {c : OpCode} {os : List Operand} (h : os.map Operand.kind = c.operandKinds) :
    ∃ i, withOperands c os = some i := by
  cases c <;>
    simp only [OpCode.operandKinds, List.map_eq_nil_iff, List.map_eq_cons_iff, Operand.kind_eq_u8_iff,
      Operand.kind_eq_seq_iff] at h
  case crcInit | crcRead | cidRead => subst h; exact ⟨_, rfl⟩
  case crcUpdate | preSel | crcCompute | decMd | decP2p => obtain ⟨_, _, rfl, ⟨_, rfl⟩, rfl⟩ := h; exact ⟨_, rfl⟩
  case encMd | encP2p =>
    obtain ⟨_, _, rfl, ⟨_, rfl⟩, _, _, rfl, ⟨_, rfl⟩, _, _, rfl, ⟨_, rfl⟩, rfl⟩ := h
    exact ⟨_, rfl⟩

/-- R45: a listed op byte with operands that do not match its row is no request. -/
theorem decodeRequest_of_row_ne {op : Byte} {c : OpCode} {os : List Operand} (hop : opCodeOf op = some c)
    (h : requestRow op ≠ some (os.map Operand.kind)) : decodeRequest op os = .illTyped := by
  have hnone : withOperands c os = none := by
    refine Option.eq_none_iff_forall_ne_some.mpr fun i hi => h ?_
    rw [requestRow_of_opCodeOf hop, map_kind_of_withOperands hi]
  simp [decodeRequest, hop, hnone]

/-- R45: a listed op byte with operands that match its row is a request. -/
theorem decodeRequest_of_row_eq {op : Byte} {c : OpCode} {os : List Operand} (hop : opCodeOf op = some c)
    (h : requestRow op = some (os.map Operand.kind)) : ∃ i, decodeRequest op os = .op i := by
  rw [requestRow_of_opCodeOf hop, Option.some.injEq] at h
  obtain ⟨i, hi⟩ := withOperands_of_map_kind h.symm
  exact ⟨i, by simp [decodeRequest, hop, hi]⟩

end Sys2Proof

namespace Sys2Proof.Machine

/-- A step that meets no request refuses it (R45, log 9). -/
theorem step_of_illTyped {s : State} {e : HostEvent} {rest : List HostEvent} (hp : s.pending = e :: rest)
    (hd : decode e = .illTyped) : step s = .refused .illTypedRequest := by
  simp [step, hp, hd, refuseIllTyped]

/-! ## The checks of lengths (R45) -/

/-- R82: with a valid address, a payload above MAX_PAYLOAD is what ENC_MD reports. -/
theorem exec_encMd_of_payload_too_long {a : Byte} {p : Seq} (ha : a.toNat ≤ 40) (hp : Config.maxPayload < p.length)
    (cmd : Byte) (s : State) : exec (.encMd a cmd p) s = .next (s.receive (.error .payloadTooLong)) := by
  rcases encodeMd_cases a cmd p s with ⟨hbad, _⟩ | ⟨_, _, hnext⟩ | ⟨_, _, _, hshort, _⟩
  · omega
  · exact hnext
  · omega

/-- R83: ENC_P2P has no other check than that of the payload's length. -/
theorem exec_encP2p_of_payload_too_long {p : Seq} (hp : Config.maxPayload < p.length) (a cmd : Byte) (s : State) :
    exec (.encP2p a cmd p) s = .next (s.receive (.error .payloadTooLong)) := by
  rcases encodeP2p_cases a cmd p s with ⟨_, hnext⟩ | ⟨hshort, _⟩
  · exact hnext
  · omega

theorem decodeMd_of_truncated {f : Seq} (h : f.length < 10) : decodeMd f = .error .truncated := if_pos h

theorem decodeMd_of_payload_too_long {f : Seq} (h : 10 + Config.maxPayload < f.length) :
    decodeMd f = .error .payloadTooLong := by
  rw [decodeMd, mdOverhead, if_neg (by omega), if_pos (by omega)]

theorem decodeP2p_of_truncated {f : Seq} (h : f.length < 7) : decodeP2p f = .error .truncated := if_pos h

theorem decodeP2p_of_payload_too_long {f : Seq} (h : 7 + Config.maxPayload < f.length) :
    decodeP2p f = .error .payloadTooLong := by
  rw [decodeP2p, p2pOverhead, if_neg (by omega), if_pos (by omega)]

theorem exec_decMd_of_error {f : Seq} {e : Error} (h : decodeMd f = .error e) (s : State) :
    exec (.decMd f) s = .next (s.receive (.error e)) := by
  rw [exec, execDecMd, h]; rfl

theorem exec_decP2p_of_error {f : Seq} {e : Error} (h : decodeP2p f = .error e) (s : State) :
    exec (.decP2p f) s = .next (s.receive (.error e)) := by
  rw [exec, execDecP2p, h]; rfl

/-- Settles O4: the decoder compares the operands' types with the op byte's row, and each operation checks its lengths. -/
theorem mismatchedOperandsAreRefused : Obligations.MismatchedOperandsAreRefused := by
  refine ⟨fun row hmem => ?types, fun a cmd p s ha hlen => exec_encMd_of_payload_too_long ha hlen cmd s,
    fun a cmd p s hlen => exec_encP2p_of_payload_too_long hlen a cmd s, fun f s => ?decoders⟩
  case types =>
    have hrow : (opCodeOf row.1).isSome = true ∧ requestRow row.1 = some row.2 := by
      revert row
      decide
    obtain ⟨hlisted, hkinds⟩ := hrow
    obtain ⟨c, hop⟩ := Option.isSome_iff_exists.mp hlisted
    intro os s rest hp
    constructor
    · intro hne
      have hbad : requestRow row.1 ≠ some (os.map Operand.kind) := by simpa [hkinds] using hne.symm
      exact step_of_illTyped hp (decodeRequest_of_row_ne hop hbad)
    · intro heq
      exact decodeRequest_of_row_eq hop (hkinds.trans (congrArg some heq.symm))
  case decoders =>
    exact ⟨fun h => exec_decMd_of_error (decodeMd_of_truncated h) s,
      fun h => exec_decMd_of_error (decodeMd_of_payload_too_long h) s,
      fun h => exec_decP2p_of_error (decodeP2p_of_truncated h) s,
      fun h => exec_decP2p_of_error (decodeP2p_of_payload_too_long h) s⟩

/-! ## The preamble table (R54) -/

/-- Settles O26: in each range the earlier tests of PRE fail and its own holds. -/
theorem preambleFollowsTheTable : Obligations.PreambleFollowsTheTable := by
  intro a
  refine ⟨fun h => if_pos h, fun ⟨hlo, hhi⟩ => ?_, fun ⟨hlo, hhi⟩ => ?_, fun ⟨hlo, hhi⟩ => ?_, fun ⟨hlo, hhi⟩ => ?_,
    fun ⟨hlo, hhi⟩ => ?_, fun ⟨hlo, _⟩ => (preamble_eq_none_iff a).mpr hlo⟩
  · rw [preamble, if_neg (by omega), if_pos hhi]
  · rw [preamble, if_neg (by omega), if_neg (by omega), if_pos hhi]
  · rw [preamble, if_neg (by omega), if_neg (by omega), if_neg (by omega), if_pos hhi]
  · rw [preamble, if_neg (by omega), if_neg (by omega), if_neg (by omega), if_neg (by omega), if_pos hhi]
  · rw [preamble, if_neg (by omega), if_neg (by omega), if_neg (by omega), if_neg (by omega), if_neg (by omega),
      if_pos hhi]

/-! ## Layouts (R49, R50, R52) -/

/-- The last two bytes of a sequence that ends in BE16. -/
theorem slice_be16_end (q : Seq) (v : Word) :
    slice (q ++ be16 v) ((q ++ be16 v).length - 2) ((q ++ be16 v).length - 1) = be16 v := by
  have hlen : (q ++ be16 v).length = q.length + 2 := by simp
  have hcount : (q ++ be16 v).length - 1 + 1 - ((q ++ be16 v).length - 2) = 2 := by omega
  rw [slice, hcount, hlen, Nat.add_sub_cancel, List.drop_left]
  rfl

/-- The bytes an MD frame's CRC is computed over are those after the preamble and before the CRC (R52). -/
theorem slice_frameMd_cover (pre : Preamble) (a cmd : Byte) (id : Word) (p : Seq) :
    slice (frameMd pre a cmd id p) 3 ((frameMd pre a cmd id p).length - 3) = cover a cmd id p :=
  slice_before_end (pre.toSeq ++ cover a cmd id p) _ _ 3 (by simp) (by simp)

theorem slice_frameMd_payload (pre : Preamble) (a cmd : Byte) (id : Word) (p : Seq) :
    slice (frameMd pre a cmd id p) 8 ((frameMd pre a cmd id p).length - 3) = p :=
  slice_before_end (pre.toSeq ++ cover a cmd id p) _ _ 8 (by simp) (by simp; omega)

theorem slice_frameMd_crc (pre : Preamble) (a cmd : Byte) (id : Word) (p : Seq) :
    slice (frameMd pre a cmd id p) ((frameMd pre a cmd id p).length - 2) ((frameMd pre a cmd id p).length - 1) =
      be16 (crc16 (cover a cmd id p)) :=
  slice_be16_end (pre.toSeq ++ cover a cmd id p) _

/-- Every byte of a P2P frame but the CRC is covered (R52). -/
theorem slice_frameP2p_cover (a cmd : Byte) (p : Seq) :
    slice (frameP2p a cmd p) 0 ((frameP2p a cmd p).length - 3) = cover a cmd 0x0000#16 p :=
  slice_before_end (cover a cmd 0x0000#16 p) _ _ 0 (by simp) (by simp)

theorem slice_frameP2p_payload (a cmd : Byte) (p : Seq) :
    slice (frameP2p a cmd p) 5 ((frameP2p a cmd p).length - 3) = p :=
  slice_before_end (cover a cmd 0x0000#16 p) _ _ 5 (by simp) (by simp)

theorem slice_frameP2p_crc (a cmd : Byte) (p : Seq) :
    slice (frameP2p a cmd p) ((frameP2p a cmd p).length - 2) ((frameP2p a cmd p).length - 1) =
      be16 (crc16 (cover a cmd 0x0000#16 p)) :=
  slice_be16_end (cover a cmd 0x0000#16 p) _

/-- Settles O31: the fields before the payload stand at fixed offsets, the others at the frame's end. -/
theorem mdFrameLayout : Obligations.MdFrameLayout := by
  rintro pre a cmd id p f n _ rfl rfl
  have hcover := slice_frameMd_cover pre a cmd id p
  refine ⟨frameMd_length pre a cmd id p, rfl, rfl, rfl, rfl, rfl, rfl, fromBe16_frameMd pre a cmd id p,
    slice_frameMd_payload pre a cmd id p, ?crc, hcover.trans (cover_eq a cmd id p)⟩
  case crc => rw [hcover, slice_frameMd_crc]

/-- Settles O32: as in an MD frame, without the preamble and with the id 0. -/
theorem p2pFrameLayout : Obligations.P2pFrameLayout := by
  rintro a cmd p f n rfl rfl
  refine ⟨frameP2p_length a cmd p, rfl, rfl, rfl, rfl, rfl, slice_frameP2p_payload a cmd p, ?crc⟩
  case crc => rw [slice_frameP2p_cover, slice_frameP2p_crc]

end Sys2Proof.Machine
end

section
/-!
Proofs, family 40_crc.md: the bit step of R65 in unbounded arithmetic (O11) and the four operations of the CRC family with the
rules' corner cases and examples (O14 to O18).
-/

namespace Sys2Proof.Machine

/-! ## The bit step (R65) -/

/-- A shift within 16 bits is a shift and the mask. -/
theorem toNat_shiftLeft_one_eq_mask (c : Word) : (c <<< 1).toNat = (c.toNat <<< 1) &&& 0xFFFF := by
  rw [BitVec.toNat_shiftLeft, ← Nat.and_two_pow_sub_one_eq_mod]

theorem crcBit_of_top_ne {c : Word} {b : Bool} (h : c.getLsbD 15 ≠ b) : crcBit c b = (c <<< 1) ^^^ POLY :=
  if_pos (bne_iff_ne.mpr h)

theorem crcBit_of_top_eq {c : Word} {b : Bool} (h : c.getLsbD 15 = b) : crcBit c b = c <<< 1 := by
  subst h
  exact crcBit_own_top c

/-- POLY has no bit above bit 15, so the mask leaves it as it is. -/
theorem mask_xor_poly (n : Nat) : (n ^^^ 0x1021) &&& 0xFFFF = (n &&& 0xFFFF) ^^^ 0x1021 :=
  Nat.and_xor_distrib_right

/-- Settles O11: the two branches of CRC_BIT, and the mask distributed over the XOR. -/
theorem crcBitShiftsAndXorsThePolynomial : Obligations.CrcBitShiftsAndXorsThePolynomial := by
  intro c b
  refine ⟨?_, mask_xor_poly (c.toNat <<< 1)⟩
  by_cases h : c.getLsbD 15 = b
  · rw [if_neg (not_not.mpr h), crcBit_of_top_eq h, toNat_shiftLeft_one_eq_mask]
  · rw [if_pos h, crcBit_of_top_ne h, BitVec.toNat_xor, toNat_shiftLeft_one_eq_mask]
    rfl

/-! ## CRC_INIT, and the CRC of no byte -/

/-- Settles O14: op byte 0x01 selects CRC_INIT, whose seed is 0x1D0F. -/
theorem crcInitLoadsTheSeed : Obligations.CrcInitLoadsTheSeed := ⟨rfl, exec_crcInit⟩

theorem crc16_nil : crc16 [] = SEED := crcFrom_nil SEED

/-- Settles O18: the loop of R67 ends before its first round. -/
theorem crcOfNoByteIsTheSeed : Obligations.CrcOfNoByteIsTheSeed := ⟨crc16_nil, rfl⟩

/-! ## CRC_UPDATE -/

/-- A shift by 8 moves the low byte into the high one. -/
theorem high_byte_shiftLeft_eight (c : Word) : (c <<< 8).extractLsb' 8 8 = c.extractLsb' 0 8 := by
  apply BitVec.eq_of_getLsbD_eq
  intro i hi
  simp only [BitVec.getLsbD_extractLsb', BitVec.getLsbD_shiftLeft]
  simp [hi, show 8 + i < 16 by omega]

/-- R69: a register fed its own two bytes is shifted out whole. -/
theorem crcByte_own_bytes (c : Word) : crcByte (crcByte c (c.extractLsb' 8 8)) (c.extractLsb' 0 8) = 0x0000#16 := by
  calc crcByte (crcByte c (c.extractLsb' 8 8)) (c.extractLsb' 0 8)
      = crcByte (c <<< 8) ((c <<< 8).extractLsb' 8 8) := by rw [crcByte_own_high, high_byte_shiftLeft_eight]
    _ = c <<< 8 <<< 8 := crcByte_own_high (c <<< 8)
    _ = c <<< 16 := (BitVec.shiftLeft_add c 8 8).symm
    _ = 0x0000#16 := BitVec.shiftLeft_eq_zero (by decide)

/-- Settles O15: the operation in every state, the register fed its own bytes, and the rule's two values from SEED. -/
theorem crcUpdateFeedsOneByte : Obligations.CrcUpdateFeedsOneByte :=
  ⟨fun _ => rfl, exec_crcUpdate, by decide, crcByte_own_bytes, by decide⟩

/-! ## CRC_READ and CRC_STREAM -/

theorem exec_crcRead (s : State) :
    exec .crcRead s = .next { s with results := s.results ++ [.ok (some (.u16 s.crc))] } := rfl

/-- R35: a sequence goes on from the state its first part leaves. -/
theorem execAll_append_of_next {is : List Instr} {s t : State} (h : execAll is s = .next t) (js : List Instr) :
    execAll (is ++ js) s = execAll js t := by
  induction is generalizing s with
  | nil =>
    rw [execAll_nil] at h
    cases h
    rfl
  | cons i is ih =>
    rw [execAll] at h
    cases hi : exec i s with
    | next u =>
      rw [hi, andThen] at h
      rw [List.cons_append, execAll_cons_of_next hi, ih h]
    | fault r => simp [hi, andThen] at h
    | refused r => simp [hi, andThen] at h

/-- R48: CRC_STREAM leaves and returns the CRC of its bytes, after one result without a value for CRC_INIT and for each
byte. -/
theorem execAll_crcStream (q : Seq) (s : State) :
    execAll (crcStream q) s =
      .next { s with
        crc := crc16 q
        results := s.results ++ List.replicate (q.length + 1) (.ok none) ++ [.ok (some (.u16 (crc16 q)))] } := by
  rw [crcStream, ← List.cons_append, execAll_append_of_next (execAll_crcInit_crcUpdates q s),
    execAll_cons_of_next (exec_crcRead _), execAll_nil]

/-- The rules' example: the CRC of "123456789". -/
theorem crc16_digits_one_to_nine :
    crc16 [0x31#8, 0x32#8, 0x33#8, 0x34#8, 0x35#8, 0x36#8, 0x37#8, 0x38#8, 0x39#8] = 0xE5CC#16 := by
  decide +kernel

/-- Settles O16: the operation in every state, right after reset, and after the example stream. -/
theorem crcReadReturnsTheRegister : Obligations.CrcReadReturnsTheRegister := by
  refine ⟨rfl, exec_crcRead, exec_crcRead State.reset, fun s => ⟨_, execAll_crcStream _ s, ?_⟩⟩
  rw [exec_crcRead, crc16_digits_one_to_nine]

/-! ## CRC_COMPUTE -/

theorem exec_crcCompute (q : Seq) (s : State) :
    exec (.crcCompute q) s =
      .next { s with crc := crc16 q, results := s.results ++ [.ok (some (.u16 (crc16 q)))] } := rfl

/-- Settles O17: the operation in every state, on no byte, against CRC_INIT and one CRC_UPDATE per byte, and on the
example. -/
theorem crcComputeReturnsAndKeepsTheCrc : Obligations.CrcComputeReturnsAndKeepsTheCrc :=
  ⟨fun _ => rfl, exec_crcCompute, exec_crcCompute [], fun q s => ⟨_, execAll_crcInit_crcUpdates q s, rfl⟩,
    crc16_digits_one_to_nine⟩

end Sys2Proof.Machine
end

section
/-!
Proofs, family 41_frame.md: the queries CID_READ (O24) and PRE_SEL (O28), the two encoders (O29, O30) and the two decoders on
every sequence (O33, O34).
-/

namespace Sys2Proof.Machine

/-! ## CID_READ -/

theorem exec_cidRead (s : State) :
    exec .cidRead s = .next { s with results := s.results ++ [.ok (some (.u16 s.cid))] } := rfl

/-- R18, R81: what CID_READ returns is CID, and the invariant says that CID is not 0. -/
theorem results_ne_zero_of_exec_cidRead {s t : State} (hinv : Inv s) (h : exec .cidRead s = .next t) :
    t.results ≠ s.results ++ [.ok (some (.u16 0x0000#16))] := by
  obtain ⟨hcid, _⟩ := hinv
  rw [exec_cidRead, Host.Outcome.next.injEq] at h
  subst h
  simpa using hcid

/-- R17, R20: the id after the first. -/
theorem nextCid_firstCid : nextCid firstCid = 0x0002#16 := by decide

/-- Settles O24: the operation in every state, and the id that a successful ENC_MD finds in CID and the one it leaves. -/
theorem cidReadReturnsTheCounter : Obligations.CidReadReturnsTheCounter := by
  refine ⟨rfl, exec_cidRead, exec_cidRead State.reset, fun s t => results_ne_zero_of_exec_cidRead,
    fun a cmd p s ha hp => ?frameId, fun a cmd p ha hp => ?second⟩
  case frameId =>
    obtain ⟨pre, _, hexec⟩ := exec_encMd_of_valid ha hp cmd s
    exact ⟨_, frameMd pre a cmd s.cid p, hexec, rfl, fromBe16_frameMd pre a cmd s.cid p⟩
  case second =>
    obtain ⟨pre, _, hexec⟩ := exec_encMd_of_valid ha hp cmd State.reset
    refine ⟨_, hexec, ?_⟩
    rw [exec_cidRead, State.receive_cid, State.setCid_cid, show State.reset.cid = firstCid from rfl, nextCid_firstCid]

/-! ## PRE_SEL -/

theorem exec_preSel_of_bad_address {a : Byte} (ha : 40 < a.toNat) (s : State) :
    exec (.preSel a) s = .next (s.receive (.error .badAddress)) := by
  rw [exec, execPreSel, (preamble_eq_none_iff a).mpr ha]
  rfl

theorem exec_preSel_of_preamble {a : Byte} {pre : Preamble} (hpre : preamble a = some pre) (s : State) :
    exec (.preSel a) s = .next (s.receive (.ok (some (.seq pre.toSeq)))) := by
  rw [exec, execPreSel, hpre]
  rfl

/-- R79: the first and the last address of a group have one preamble, the address before the group another. -/
theorem preamble_group_boundaries : ∀ g : Nat, g < 5 →
    preamble (BitVec.ofNat 8 (8 * g + 1)) = preamble (BitVec.ofNat 8 (8 * g + 8)) ∧
      preamble (BitVec.ofNat 8 (8 * g)) ≠ preamble (BitVec.ofNat 8 (8 * g + 1)) := by
  decide

/-- Settles O28: PRE is defined exactly up to 40, and the groups are those of the table. -/
theorem preSelReturnsThePreambleOrRaises : Obligations.PreSelReturnsThePreambleOrRaises := by
  refine ⟨fun _ => rfl, fun a s ha => exec_preSel_of_bad_address ha s, fun a s ha => ?valid, preamble_group_boundaries,
    rfl, rfl⟩
  case valid =>
    obtain ⟨pre, hpre⟩ := preamble_of_le ha
    exact ⟨pre, hpre, exec_preSel_of_preamble hpre s⟩

/-! ## ENC_MD -/

/-- R82: the address is checked first, whatever the payload. -/
theorem exec_encMd_of_bad_address {a : Byte} (ha : 40 < a.toNat) (cmd : Byte) (p : Seq) (s : State) :
    exec (.encMd a cmd p) s = .next (s.receive (.error .badAddress)) := by
  rcases encodeMd_cases a cmd p s with ⟨_, hnext⟩ | ⟨hle, _⟩ | ⟨_, _, hle, _⟩
  · exact hnext
  · omega
  · omega

/-- The rules' example of an MD frame: its CRC. -/
theorem crc16_md_example : crc16 [0xAA#8, 0x0C#8, 0x66#8, 0x00#8, 0x01#8] = 0xEBDC#16 := by
  decide +kernel

/-- R82's example: the first frame after reset, to unit 12 with code 0x66. -/
theorem frameMd_example :
    frameMd ⟨0x00#8, 0x12#8, 0xED#8⟩ 0x0C#8 0x66#8 0x0001#16 [] =
      [0x00#8, 0x12#8, 0xED#8, 0xAA#8, 0x0C#8, 0x66#8, 0x00#8, 0x01#8, 0xEB#8, 0xDC#8] := by
  have hcover : cover 0x0C#8 0x66#8 0x0001#16 [] = [0xAA#8, 0x0C#8, 0x66#8, 0x00#8, 0x01#8] := by decide
  rw [frameMd_parts, hcover, crc16_md_example]
  decide

/-- R82's example as an operation. -/
theorem exec_encMd_example {s : State} (hcid : s.cid = 0x0001#16) :
    exec (.encMd 0x0C#8 0x66#8 []) s =
      .next ((s.setCid 0x0002#16).receive (.ok (some (.seq
        [0x00#8, 0x12#8, 0xED#8, 0xAA#8, 0x0C#8, 0x66#8, 0x00#8, 0x01#8, 0xEB#8, 0xDC#8])))) := by
  obtain ⟨pre, hpre, hexec⟩ := exec_encMd_of_valid (a := 0x0C#8) (p := []) (by decide) (Nat.zero_le _) 0x66#8 s
  obtain rfl : (⟨0x00#8, 0x12#8, 0xED#8⟩ : Preamble) = pre := Option.some.inj hpre
  rw [hexec, hcid, frameMd_example]
  rfl

/-- Settles O29: the two checks in their order, the frame in its fields with CID advanced, and the example. -/
theorem encMdBuildsTheFrameAndAdvancesTheId : Obligations.EncMdBuildsTheFrameAndAdvancesTheId := by
  refine ⟨fun _ _ _ => rfl, fun a cmd p s ha => exec_encMd_of_bad_address ha cmd p s,
    fun a cmd p s ha hp => exec_encMd_of_payload_too_long ha hp cmd s, fun a cmd p s ha hp => ?valid,
    fun s hcid => exec_encMd_example hcid⟩
  case valid =>
    obtain ⟨pre, hpre, hexec⟩ := exec_encMd_of_valid ha hp cmd s
    exact ⟨pre, frameMd pre a cmd s.cid p, hpre, frameMd_parts pre a cmd s.cid p, frameMd_length pre a cmd s.cid p, hexec⟩

/-! ## ENC_P2P -/

/-- R83: every address is valid, and a payload within MAX_PAYLOAD is framed without touching a register. -/
theorem exec_encP2p_of_valid {p : Seq} (hp : p.length ≤ Config.maxPayload) (a cmd : Byte) (s : State) :
    exec (.encP2p a cmd p) s = .next (s.receive (.ok (some (.seq (frameP2p a cmd p))))) := by
  rcases encodeP2p_cases a cmd p s with ⟨hlong, _⟩ | ⟨_, hnext⟩
  · omega
  · exact hnext

/-- The rules' example of a P2P frame: its CRC. -/
theorem crc16_p2p_example : crc16 [0xAA#8, 0x05#8, 0xFA#8, 0x00#8, 0x00#8] = 0x05D2#16 := by
  decide +kernel

/-- R83's example: unit 5 with code 0xFA. -/
theorem frameP2p_example :
    frameP2p 0x05#8 0xFA#8 [] = [0xAA#8, 0x05#8, 0xFA#8, 0x00#8, 0x00#8, 0x05#8, 0xD2#8] := by
  have hcover : cover 0x05#8 0xFA#8 0x0000#16 [] = [0xAA#8, 0x05#8, 0xFA#8, 0x00#8, 0x00#8] := by decide
  rw [frameP2p, body_parts, hcover, crc16_p2p_example]
  decide

/-- R83's example as an operation. -/
theorem exec_encP2p_example (s : State) :
    exec (.encP2p 0x05#8 0xFA#8 []) s = .next (s.receive (.ok (some (.seq
      [0xAA#8, 0x05#8, 0xFA#8, 0x00#8, 0x00#8, 0x05#8, 0xD2#8])))) := by
  rw [exec_encP2p_of_valid (Nat.zero_le _), frameP2p_example]

/-- Settles O30: the one check, the frame in its fields, and the example. -/
theorem encP2pBuildsTheFrameAndLeavesTheId : Obligations.EncP2pBuildsTheFrameAndLeavesTheId :=
  ⟨fun _ _ _ => rfl, fun a cmd _ s hp => exec_encP2p_of_payload_too_long hp a cmd s,
    fun a cmd p s hp => ⟨frameP2p a cmd p, body_parts a cmd 0x0000#16 p, frameP2p_length a cmd p,
      exec_encP2p_of_valid hp a cmd s⟩,
    exec_encP2p_example⟩

/-! ## DEC_MD -/

theorem exec_decMd_of_ok {f : Seq} {r : Frame} (h : decodeMd f = .ok r) (s : State) :
    exec (.decMd f) s = .next (s.receive (.ok (some (.frame r)))) := by
  rw [exec, execDecMd, h]
  rfl

/-- R85, R87: a sequence that passes every check of DEC_MD gives the record of its fields. -/
theorem decodeMd_parts_of_valid {x0 x1 x2 a ih il ch cl : Byte} {p : Seq} (cmd : Byte) (hp : p.length ≤ Config.maxPayload)
    (hcrc : crc16 ([SEP, a, cmd, ih, il] ++ p) = ch ++ cl) (hpre : preamble a = some ⟨x0, x1, x2⟩) :
    decodeMd ([x0, x1, x2, SEP, a, cmd, ih, il] ++ p ++ [ch, cl]) =
      .ok { preamble := some ⟨x0, x1, x2⟩, address := a, commandCode := cmd, commandId := ih ++ il,
            payload := p, crc := ch ++ cl } := by
  rw [decodeMd_parts, if_neg (Nat.not_lt.mpr hp), if_neg (not_not.mpr hcrc), if_neg (not_not.mpr rfl), hpre]
  exact if_neg (not_not.mpr rfl)

/-- Settles O33: a sequence long enough is taken apart into its fields, and each clause is one branch of the checks. -/
theorem decMdChecksInOrderAndReturnsTheFields : Obligations.DecMdChecksInOrderAndReturnsTheFields := by
  refine ⟨fun _ => rfl, fun f s hlen => exec_decMd_of_error (decodeMd_of_truncated hlen) s, ?fields, fun s => ?rule⟩
  case fields =>
    rintro x0 x1 x2 sep a cmd ih il p ch cl s f covered rfl rfl
    refine ⟨fun hlong => exec_decMd_of_error ?_ s, fun hp hcrc => exec_decMd_of_error ?_ s,
      fun hp hcrc hsep => exec_decMd_of_error ?_ s, fun hp hcrc hsep ha => exec_decMd_of_error ?_ s,
      fun hp hcrc hsep ha hpre => exec_decMd_of_error ?_ s, fun hp hcrc hsep hpre => exec_decMd_of_ok ?_ s⟩
    · rw [decodeMd_parts, if_pos hlong]
    · rw [decodeMd_parts, if_neg (Nat.not_lt.mpr hp), if_pos hcrc]
    · rw [decodeMd_parts, if_neg (Nat.not_lt.mpr hp), if_neg (not_not.mpr hcrc)]
      exact if_pos hsep
    · obtain rfl : sep = SEP := hsep
      rw [decodeMd_parts, if_neg (Nat.not_lt.mpr hp), if_neg (not_not.mpr hcrc), if_neg (not_not.mpr rfl),
        (preamble_eq_none_iff a).mpr ha]
    · obtain rfl : sep = SEP := hsep
      obtain ⟨pre, hsome⟩ := preamble_of_le ha
      have hne : (⟨x0, x1, x2⟩ : Preamble) ≠ pre := fun heq => hpre (heq ▸ hsome)
      rw [decodeMd_parts, if_neg (Nat.not_lt.mpr hp), if_neg (not_not.mpr hcrc), if_neg (not_not.mpr rfl), hsome]
      exact if_pos hne
    · obtain rfl : sep = SEP := hsep
      exact decodeMd_parts_of_valid cmd hp hcrc hpre
  case rule =>
    have hcrc : crc16 ([SEP, 0x0C#8, 0x66#8, 0x00#8, 0x01#8] ++ []) = 0xEB#8 ++ 0xDC#8 := crc16_md_example
    exact exec_decMd_of_ok (decodeMd_parts_of_valid 0x66#8 (Nat.zero_le _) hcrc rfl) s

/-! ## DEC_P2P -/

theorem exec_decP2p_of_ok {f : Seq} {r : Frame} (h : decodeP2p f = .ok r) (s : State) :
    exec (.decP2p f) s = .next (s.receive (.ok (some (.frame r)))) := by
  rw [exec, execDecP2p, h]
  rfl

/-- R86, R87: a sequence that passes every check of DEC_P2P gives the record of its fields, whatever its address and id. -/
theorem decodeP2p_parts_of_valid {ih il ch cl : Byte} {p : Seq} (a cmd : Byte) (hp : p.length ≤ Config.maxPayload)
    (hcrc : crc16 ([SEP, a, cmd, ih, il] ++ p) = ch ++ cl) :
    decodeP2p ([SEP, a, cmd, ih, il] ++ p ++ [ch, cl]) =
      .ok { preamble := none, address := a, commandCode := cmd, commandId := ih ++ il,
            payload := p, crc := ch ++ cl } := by
  rw [decodeP2p_parts, if_neg (Nat.not_lt.mpr hp), if_neg (not_not.mpr hcrc), if_neg (not_not.mpr rfl)]

/-- Settles O34: as for DEC_MD, with neither the address nor the preamble to check. -/
theorem decP2pChecksInOrderAndReturnsTheFields : Obligations.DecP2pChecksInOrderAndReturnsTheFields := by
  refine ⟨fun _ => rfl, fun f s hlen => exec_decP2p_of_error (decodeP2p_of_truncated hlen) s, ?fields, fun s => ?rule⟩
  case fields =>
    rintro sep a cmd ih il p ch cl s f covered rfl rfl
    refine ⟨fun hlong => exec_decP2p_of_error ?_ s, fun hp hcrc => exec_decP2p_of_error ?_ s,
      fun hp hcrc hsep => exec_decP2p_of_error ?_ s, fun hp hcrc hsep => exec_decP2p_of_ok ?_ s⟩
    · rw [decodeP2p_parts, if_pos hlong]
    · rw [decodeP2p_parts, if_neg (Nat.not_lt.mpr hp), if_pos hcrc]
    · rw [decodeP2p_parts, if_neg (Nat.not_lt.mpr hp), if_neg (not_not.mpr hcrc)]
      exact if_pos hsep
    · obtain rfl : sep = SEP := hsep
      exact decodeP2p_parts_of_valid a cmd hp hcrc
  case rule =>
    have hcrc : crc16 ([SEP, 0x05#8, 0xFA#8, 0x00#8, 0x00#8] ++ []) = 0x05#8 ++ 0xD2#8 := crc16_p2p_example
    exact exec_decP2p_of_ok (decodeP2p_parts_of_valid 0x05#8 0xFA#8 (Nat.zero_le _) hcrc) s

end Sys2Proof.Machine
end

section
/-!
Proofs, family 60_exceptions.md: the two ways an operation ends, and that a failing one writes nothing (O51).
-/

namespace Sys2Proof.Machine

/-- R93, R94: the two ways an operation begun in `s` ends. It raises, and `s` gains the error alone; or it returns, and beside
the OK result at most the two registers are written. -/
def RaisesOrReturns (s : State) (o : Out) : Prop :=
  (∃ e, o = .next (s.receive (.error e))) ∨
  (∃ v crc cid, o = .next (((s.setCrc crc).setCid cid).receive (.ok v)))

theorem raisesOrReturns_error (e : Error) (s : State) : RaisesOrReturns s (.next (s.receive (.error e))) :=
  .inl ⟨e, rfl⟩

theorem raisesOrReturns_ok (v : Option Value) (s : State) : RaisesOrReturns s (.next (s.receive (.ok v))) :=
  .inr ⟨v, s.crc, s.cid, rfl⟩

theorem raisesOrReturns_ok_setCrc (v : Option Value) (crc : Word) (s : State) :
    RaisesOrReturns s (.next ((s.setCrc crc).receive (.ok v))) :=
  .inr ⟨v, crc, s.cid, rfl⟩

theorem raisesOrReturns_ok_setCid (v : Option Value) (cid : Word) (s : State) :
    RaisesOrReturns s (.next ((s.setCid cid).receive (.ok v))) :=
  .inr ⟨v, s.crc, cid, rfl⟩

theorem encodeIn_raisesOrReturns (m : Mode) (a cmd : Byte) (p : Seq) (s : State) :
    RaisesOrReturns s (encodeIn m a cmd p s) := by
  cases m with
  | md =>
    rcases encodeMd_cases a cmd p s with ⟨_, h⟩ | ⟨_, _, h⟩ | ⟨_, _, _, _, h⟩ <;> rw [encodeIn, h]
    · exact raisesOrReturns_error _ s
    · exact raisesOrReturns_error _ s
    · exact raisesOrReturns_ok_setCid _ _ s
  | p2p =>
    rcases encodeP2p_cases a cmd p s with ⟨_, h⟩ | ⟨_, h⟩ <;> rw [encodeIn, h]
    · exact raisesOrReturns_error _ s
    · exact raisesOrReturns_ok _ s

theorem answerDecode_raisesOrReturns (r : Except Error Frame) (s : State) :
    RaisesOrReturns s (answerDecode r s) := by
  rcases answerDecode_cases r s with ⟨_, _, h⟩ | ⟨_, _, h⟩ <;> rw [h]
  · exact raisesOrReturns_ok _ s
  · exact raisesOrReturns_error _ s

theorem exec_preSel_raisesOrReturns (a : Byte) (s : State) : RaisesOrReturns s (exec (.preSel a) s) := by
  rcases Nat.lt_or_ge 40 a.toNat with ha | ha
  · rw [exec_preSel_of_bad_address ha]
    exact raisesOrReturns_error _ s
  · obtain ⟨pre, hpre⟩ := preamble_of_le ha
    rw [exec_preSel_of_preamble hpre]
    exact raisesOrReturns_ok _ s

/-- Every operation, in every state, ends in one of the two ways: the encoders and the command codes through `encodeIn`, the
decoders through `answerDecode`. -/
theorem exec_raisesOrReturns (i : Instr) (s : State) : RaisesOrReturns s (exec i s) := by
  cases i with
  | crcInit => exact raisesOrReturns_ok_setCrc _ _ s
  | crcUpdate d => exact raisesOrReturns_ok_setCrc _ _ s
  | crcCompute q => exact raisesOrReturns_ok_setCrc _ _ s
  | crcRead => exact raisesOrReturns_ok _ s
  | cidRead => exact raisesOrReturns_ok _ s
  | preSel a => exact exec_preSel_raisesOrReturns a s
  | encMd a cmd p => exact encodeIn_raisesOrReturns .md a cmd p s
  | encP2p a cmd p => exact encodeIn_raisesOrReturns .p2p a cmd p s
  | decMd f => exact answerDecode_raisesOrReturns (decodeMd f) s
  | decP2p f => exact answerDecode_raisesOrReturns (decodeP2p f) s
  | phaseShifterSetDelayLineSet m a p | attenuatorSet m a p | vipOnOff m a p | ppmSwitch m a p | beamQueueAppend m a p
  | taskReset m a p | calibrationBenchMode m a p | beamCalibrationMode m a p | telemetryRequestP2p m a p
  | telemetryRequestStatusProbeVariant m a p => exact encodeIn_raisesOrReturns m a _ p s

/-- Settles O51: an operation that raised left its state but for the error, and one that returned appended no error. -/
theorem failingOperationWritesNothing : Obligations.FailingOperationWritesNothing := by
  intro i s t e hexec hres
  rcases exec_raisesOrReturns i s with ⟨e', hraise⟩ | ⟨v, crc, cid, hret⟩
  · obtain rfl : t = s.receive (.error e') := Host.Outcome.next.inj (hexec.symm.trans hraise)
    obtain rfl : e' = e := by simpa using hres
    rfl
  · obtain rfl : t = ((s.setCrc crc).setCid cid).receive (.ok v) := Host.Outcome.next.inj (hexec.symm.trans hret)
    simp at hres

end Sys2Proof.Machine
end

section
/-!
Proofs, family other: the laws of 40_crc.md that the spec derives. The CRC by table (O13), as a stream (O19), the residue law
(O20), the affine law (O21) and the detection of bursts (O22).
-/

namespace Sys2Proof.Machine

/-! ## The table-driven step -/

/-- A byte fed into 0 is that byte's table entry: fed into the register it tops, it would only be shifted out. -/
theorem crcByte_zero_eq_crcTable (i : Byte) : crcByte 0x0000#16 i = crcTable i := by
  have hhigh : (i.setWidth 16 <<< 8).extractLsb' 8 8 = i := by
    apply BitVec.eq_of_getLsbD_eq
    intro j hj
    simp [hj, show 8 + j < 16 by omega]
  have hsum : crcByte 0x0000#16 i ^^^ crcTable i = 0x0000#16 := by
    calc crcByte 0x0000#16 i ^^^ crcTable i
        = crcByte (i.setWidth 16 <<< 8) ((i.setWidth 16 <<< 8).extractLsb' 8 8) := by
          rw [crcTable, ← crcByte_xor, hhigh, BitVec.zero_xor, BitVec.xor_zero]
      _ = i.setWidth 16 <<< 8 <<< 8 := crcByte_own_high _
      _ = 0x0000#16 := by rw [← BitVec.shiftLeft_add]; exact BitVec.shiftLeft_eq_zero (by decide)
  exact BitVec.xor_eq_zero_iff.mp hsum

/-- R66: the register's high byte is shifted out, and the table holds what the sum of it and `d` feeds back. -/
theorem crcByteByTable_eq_crcByte (c : Word) (d : Byte) : crcByteByTable c d = crcByte c d := by
  have hd : c.extractLsb' 8 8 ^^^ (c.extractLsb' 8 8 ^^^ d) = d := by rw [← BitVec.xor_assoc, BitVec.xor_self, BitVec.zero_xor]
  calc crcByteByTable c d
      = crcByte c (c.extractLsb' 8 8) ^^^ crcByte 0x0000#16 (c.extractLsb' 8 8 ^^^ d) := by
        rw [crcByteByTable, crcByte_own_high, crcByte_zero_eq_crcTable]
    _ = crcByte c d := by rw [← crcByte_xor, hd, BitVec.xor_zero]

/-- Settles O13: the two byte steps for every register and byte, and the seven entries by evaluation. -/
theorem tableStepEqualsBitSteps : Obligations.TableStepEqualsBitSteps :=
  ⟨crcByteByTable_eq_crcByte, by decide, by decide, by decide, by decide, by decide, by decide, by decide⟩

/-- Settles O19: the updates alone, and the whole pseudo-operation. -/
theorem streamLeavesTheCrcOfItsBytes : Obligations.StreamLeavesTheCrcOfItsBytes :=
  ⟨execAll_map_crcUpdate, execAll_crcStream⟩

/-! ## The residue law -/

theorem be16_append (x y : Byte) : be16 (x ++ y) = [x, y] :=
  congrArg₂ (fun h l => [h, l]) BitVec.extractLsb'_append_eq_left BitVec.extractLsb'_append_eq_right

/-- Feeding a bit loses nothing of the register. -/
theorem crcBit_injective (b : Bool) : Function.Injective (crcBit · b) := by
  intro c c' (h : crcBit c b = crcBit c' b)
  have hsum : crcBit (c ^^^ c') false = 0 := by
    have := crcBit_xor c c' b b
    rwa [Bool.xor_self, h, BitVec.xor_self] at this
  exact BitVec.xor_eq_zero_iff.mp (crcBit_false_eq_zero hsum)

/-- Feeding bytes loses nothing of the register either: the CRC's start value can be told from its end. -/
theorem crcFrom_injective (q : Seq) : Function.Injective (crcFrom · q) := by
  have hbits : ∀ (e : Nat → Bool) (n : Nat), Function.Injective (crcBits · e n) := by
    intro e n
    induction n with
    | zero => exact Function.injective_id
    | succ n ih => exact (crcBit_injective (e n)).comp ih
  intro c c' h
  simp only [crcFrom_eq_crcBits] at h
  exact hbits _ _ h

/-- R74: a register fed its own value is shifted out. -/
theorem crcFrom_be16_self (c : Word) : crcFrom c (be16 c) = 0x0000#16 := crcByte_own_bytes c

/-- The residue of a message and a CRC is 0 exactly when the CRC is the message's own. -/
theorem crc16_append_be16_eq_zero_iff (m : Seq) (v : Word) : crc16 (m ++ be16 v) = 0x0000#16 ↔ v = crc16 m := by
  have hsplit : crc16 (m ++ be16 v) = crcFrom (crc16 m) (be16 v) := crcFrom_append SEED m (be16 v)
  rw [hsplit]
  constructor
  · intro h
    exact crcFrom_injective (be16 v) ((crcFrom_be16_self v).trans h.symm)
  · rintro rfl
    exact crcFrom_be16_self _

theorem crc16_append_own_crc (m : Seq) : crc16 (m ++ be16 (crc16 m)) = 0x0000#16 :=
  (crc16_append_be16_eq_zero_iff m _).mpr rfl

/-- Settles O20: the residue law, and SEED's own bytes as the CRC of no byte. -/
theorem residueIsZeroExactlyForTheCrc : Obligations.ResidueIsZeroExactlyForTheCrc :=
  ⟨crc16_append_own_crc, crc16_append_be16_eq_zero_iff, crc16_append_own_crc []⟩

/-! ## The affine law -/

theorem zipWith_xor_zeros (q : Seq) : List.zipWith (· ^^^ ·) q (List.replicate q.length 0x00#8) = q := by
  induction q with
  | nil => rfl
  | cons x q ih => simp [List.replicate_succ, ih]

/-- The start value goes in once on the left and three times on the right. -/
theorem crc16_zipWith_xor {a b : Seq} (h : a.length = b.length) :
    crc16 (List.zipWith (· ^^^ ·) a b) = crc16 a ^^^ crc16 b ^^^ crc16 (List.replicate a.length 0x00#8) := by
  have hlen : (List.zipWith (· ^^^ ·) a b).length = a.length := by simp [h]
  have hsum : crc16 a ^^^ crc16 b = crcFrom 0x0000#16 (List.zipWith (· ^^^ ·) a b) := by
    rw [crc16, crc16, ← crcFrom_xor a b h, BitVec.xor_self]
  rw [hsum, crc16, crc16, ← crcFrom_xor _ _ (by simp [h]), BitVec.zero_xor, ← hlen, zipWith_xor_zeros]

/-- Settles O21: the law, and the CRCs of short runs of zero bytes by evaluation. -/
theorem crcIsAffine : Obligations.CrcIsAffine :=
  ⟨fun _ _ => crc16_zipWith_xor, by decide, by decide, by decide, by decide +kernel, by decide +kernel⟩

/-! ## Bursts -/

theorem eq_of_bitAt_eq {q r : Seq} (hlen : q.length = r.length) (h : ∀ j < 8 * q.length, bitAt q j = bitAt r j) : q = r := by
  refine List.ext_getElem hlen fun i hq hr => BitVec.eq_of_getLsbD_eq fun n hn => ?_
  have hbit := h (8 * i + (7 - n)) (by omega)
  have hdiv : (8 * i + (7 - n)) / 8 = i := by omega
  have hmod : 7 - (8 * i + (7 - n)) % 8 = n := by omega
  rw [bitAt, bitAt, hdiv, hmod] at hbit
  simpa [byteAt, List.getD, hq, hr] using hbit

/-- Bits that bring 0 back to 0 are all 0 when the ones among them stand within sixteen places: before the window the register
stays 0, and after it only 0 can go to 0. -/
theorem crcBits_burst {e : Nat → Bool} {k n : Nat} (hwin : ∀ j, e j = true → k ≤ j ∧ j < k + 16)
    (h : crcBits 0 e n = 0) : ∀ j < n, e j = false := by
  have hout : ∀ j, ¬(k ≤ j ∧ j < k + 16) → e j = false := fun j hj => by simpa using mt (hwin j) hj
  rcases Nat.le_total n k with hnk | hkn
  · exact fun j hj => hout j (by omega)
  obtain ⟨w, r, hw, hn⟩ : ∃ w r, w ≤ 16 ∧ n = k + w + r ∧ (r = 0 ∨ w = 16) :=
    ⟨min 16 (n - k), n - k - min 16 (n - k), by omega, by omega, by omega⟩
  obtain ⟨rfl, hlast⟩ := hn
  have hbefore : crcBits 0 e k = 0 :=
    (crcBits_congr 0 (e' := fun _ => false) fun j hj => hout j (by omega)).trans (crcBits_zero k)
  have hafter : crcBits (crcBits 0 e (k + w)) (fun _ => false) r = 0 := by
    rw [crcBits_add] at h
    exact (crcBits_congr _ (e' := fun _ => false) fun j hj => hout (k + w + j) (by omega)).symm.trans h
  have hwindow : crcBits 0 (fun j => e (k + j)) w = 0 := by
    have := crcBits_false_eq_zero hafter
    rwa [crcBits_add, hbefore] at this
  intro j hj
  by_cases hin : k ≤ j ∧ j < k + w
  · have := crcBits_window hw hwindow (j - k) (by omega)
    rwa [show k + (j - k) = j by omega] at this
  · exact hout j (by omega)

/-- Two sequences of one length that differ within sixteen bits only, and have the same CRC, are the same. -/
theorem eq_of_crc16_eq_of_burst {q r : Seq} (k : Nat) (hlen : q.length = r.length)
    (hwin : ∀ j, bitAt q j ≠ bitAt r j → k ≤ j ∧ j < k + 16) (hcrc : crc16 q = crc16 r) : q = r := by
  have hdiff : crcBits 0 (fun j => bitAt q j ^^ bitAt r j) (8 * q.length) = 0 := by
    have := crcBits_xor SEED SEED (bitAt q) (bitAt r) (8 * q.length)
    rwa [← crcFrom_eq_crcBits SEED q, hlen, ← crcFrom_eq_crcBits SEED r, ← crc16, ← crc16, hcrc, BitVec.xor_self,
      BitVec.xor_self, ← hlen] at this
  have hzero := crcBits_burst (fun j hj => hwin j (by simpa using hj)) hdiff
  exact eq_of_bitAt_eq hlen fun j hj => by simpa using hzero j hj

/-- Settles O22: with residue 0 the changed sequence would have the residue of the message and its CRC, and so be these. -/
theorem burstsOfSixteenBitsAreDetected : Obligations.BurstsOfSixteenBitsAreDetected := by
  intro m g k hlen hne hwin hzero
  exact hne (eq_of_crc16_eq_of_burst k (by simpa using hlen) hwin (hzero.trans (crc16_append_own_crc m).symm))

end Sys2Proof.Machine
end

section
/-!
Proofs, family other: the decoder against the encoder (O1, O2), the illegal op bytes (O3), and the command codes, which are
executed as the encode operation of their mode (O42, O43, O44).
-/

namespace Sys2Proof

open Sys2Proof.Machine

/-! ## Decode and encode -/

/-- The row that the encoder writes an instruction with is the row that the decoder finds. -/
theorem decode_encode (i : Instr) : decode (encode i) = .op i := by
  cases i <;> rfl

/-- Settles O1: the ten op bytes are those of the encoder. -/
theorem opBytesSelectTheirOperations : Obligations.OpBytesSelectTheirOperations := fun d a cmd q p f =>
  ⟨decode_encode .crcInit, decode_encode (.crcUpdate d), decode_encode .crcRead, decode_encode (.crcCompute q),
    decode_encode (.preSel a), decode_encode .cidRead, decode_encode (.encMd a cmd p), decode_encode (.encP2p a cmd p),
    decode_encode (.decMd f), decode_encode (.decP2p f)⟩

/-- The op byte of each operation in R43. -/
def OpCode.opByte : OpCode → Byte
  | .crcInit => 0x01#8
  | .crcUpdate => 0x02#8
  | .crcRead => 0x03#8
  | .crcCompute => 0x04#8
  | .preSel => 0x10#8
  | .cidRead => 0x11#8
  | .encMd => 0x20#8
  | .encP2p => 0x21#8
  | .decMd => 0x30#8
  | .decP2p => 0x31#8

/-- No operation has two op bytes. -/
theorem eq_opByte_of_opCodeOf {op : Byte} {c : OpCode} (h : opCodeOf op = some c) : op = c.opByte := by
  have hrows : ∀ row ∈ opTable, row.1 = row.2.opByte := by decide
  exact hrows (op, c) (mem_opTable_of_opCodeOf h)

theorem encode_of_withOperands {c : OpCode} {os : List Operand} {i : Instr} (h : withOperands c os = some i) :
    encode i = .request c.opByte os := by
  unfold withOperands at h
  split at h
  case h_11 => cases h
  all_goals cases h; rfl

/-- A request that is an operation is that operation's encoding. -/
theorem encode_of_decode_request {op : Byte} {os : List Operand} {i : Instr} (h : decode (.request op os) = .op i) :
    encode i = .request op os := by
  rw [decode, decodeRequest] at h
  cases hop : opCodeOf op with
  | none => simp [hop] at h
  | some c =>
    cases hi : withOperands c os with
    | none => simp [hop, hi] at h
    | some i' =>
      obtain rfl : i' = i := by simpa [hop, hi] using h
      rw [encode_of_withOperands hi, ← eq_opByte_of_opCodeOf hop]

/-! ## The command codes (R58) -/

theorem mem_commandTable_of_lookup {code : Byte} {mk : Mode → Byte → Seq → Instr}
    (h : commandTable.lookup code = some mk) : (code, mk) ∈ commandTable := by
  obtain ⟨before, after, htable, _⟩ := List.lookup_eq_some_iff.mp h
  simp [htable]

theorem encode_of_mem_commandTable {row : Byte × (Mode → Byte → Seq → Instr)} (h : row ∈ commandTable) (m : Mode) (a : Byte)
    (p : Seq) : encode (row.2 m a p) = .command row.1 m a p := by
  simp only [commandTable, List.mem_cons, List.not_mem_nil, or_false] at h
  rcases h with rfl | rfl | rfl | rfl | rfl | rfl | rfl | rfl | rfl | rfl <;> rfl

theorem decodeCommand_of_lookup_none {code : Byte} (h : commandTable.lookup code = none) (m : Mode) (a : Byte) (p : Seq) :
    decodeCommand code m a p = encodeInMode m a code p := by
  rw [decodeCommand, h]

theorem encode_decodeCommand_of_lookup_some {code : Byte} {mk : Mode → Byte → Seq → Instr}
    (h : commandTable.lookup code = some mk) (m : Mode) (a : Byte) (p : Seq) :
    encode (decodeCommand code m a p) = .command code m a p := by
  rw [decodeCommand, h]
  exact encode_of_mem_commandTable (mem_commandTable_of_lookup h) m a p

/-- Settles O2: the three directions; a command code is in the list exactly when the table has a row for it. -/
theorem decodeAndEncodeAgree : Obligations.DecodeAndEncodeAgree := by
  refine ⟨decode_encode, fun _ _ _ => encode_of_decode_request, fun code m a p i h => ?command⟩
  obtain rfl : decodeCommand code m a p = i := Decoded.op.inj h
  cases hrow : commandTable.lookup code with
  | some mk =>
    have hmem : code ∈ commandTable.map Prod.fst := List.mem_map.mpr ⟨_, mem_commandTable_of_lookup hrow, rfl⟩
    exact (if_pos hmem).mpr (encode_decodeCommand_of_lookup_some hrow m a p)
  | none =>
    have hmem : code ∉ commandTable.map Prod.fst := by
      intro hin
      obtain ⟨row, hmem, rfl⟩ := List.mem_map.mp hin
      simpa using List.lookup_eq_none_iff.mp hrow row hmem
    refine (if_neg hmem).mpr ((decodeCommand_of_lookup_none hrow m a p).trans ?_)
    cases m <;> rfl

/-! ## Illegal op bytes (R46) -/

/-- The ten listed op bytes and the ranges of R46 are complementary. -/
theorem opCodeOf_eq_none_iff_toNat (op : Byte) : opCodeOf op = none ↔
    (op.toNat = 0x00 ∨ (0x05 ≤ op.toNat ∧ op.toNat ≤ 0x0F) ∨ (0x12 ≤ op.toNat ∧ op.toNat ≤ 0x1F) ∨
      (0x22 ≤ op.toNat ∧ op.toNat ≤ 0x2F) ∨ (0x32 ≤ op.toNat ∧ op.toNat ≤ 0xFF)) := by
  have hlisted := opCodeOf_isSome_iff op
  have hbound := op.isLt
  rw [Option.isSome_iff_ne_none] at hlisted
  rw [← not_iff_not, ← ne_eq, hlisted]
  simp only [opTable, List.map_cons, List.map_nil, List.mem_cons, List.not_mem_nil, or_false, ← BitVec.toNat_inj,
    BitVec.toNat_ofNat]
  omega

/-- Every operation has operands that make it an instruction. -/
theorem exists_withOperands (c : OpCode) : ∃ os i, withOperands c os = some i := by
  cases c with
  | crcInit | crcRead | cidRead => exact ⟨[], _, rfl⟩
  | crcUpdate | preSel => exact ⟨[.u8 0x00#8], _, rfl⟩
  | crcCompute | decMd | decP2p => exact ⟨[.seq []], _, rfl⟩
  | encMd | encP2p => exact ⟨[.u8 0x00#8, .u8 0x00#8, .seq []], _, rfl⟩

end Sys2Proof

namespace Sys2Proof.Machine

/-- A step at an illegal op byte answers it (R46). -/
theorem step_of_illegalOp {s : State} {e : HostEvent} {rest : List HostEvent} (hp : s.pending = e :: rest)
    (hd : decode e = .illegalOp) : step s = .next ((s.withPending rest).receive (.error .illegalOp)) := by
  simp [step, hp, hd, raiseIllegalOp, raise]

/-- Settles O3: the ranges hold exactly the op bytes outside R43, and the decoder looks at nothing else first. -/
theorem illegalOpBytesRaiseIllegalOp : Obligations.IllegalOpBytesRaiseIllegalOp := by
  intro op
  rw [← opCodeOf_eq_none_iff_toNat]
  constructor
  · intro hop os s rest hp
    exact step_of_illegalOp hp (by rw [decode, decodeRequest, hop])
  · intro hop
    obtain ⟨c, hc⟩ := Option.ne_none_iff_exists'.mp hop
    obtain ⟨os, i, hi⟩ := exists_withOperands c
    exact ⟨os, i, by rw [decode, decodeRequest, hc]; simp only [hi]⟩

/-! ## A command code is executed as an encode operation (log 4) -/

/-- What encodes as a frame command is executed by the encoder of its mode, with its code. -/
theorem exec_of_encode_command {i : Instr} {code a : Byte} {m : Mode} {p : Seq} (h : encode i = .command code m a p)
    (s : State) : exec i s = encodeIn m a code p s := by
  cases i <;> cases h <;> rfl

theorem exec_encodeInMode (m : Mode) (a cmd : Byte) (p : Seq) (s : State) :
    exec (encodeInMode m a cmd p) s = encodeIn m a cmd p s := by
  cases m <;> rfl

theorem exec_of_mem_commandTable {row : Byte × (Mode → Byte → Seq → Instr)} (h : row ∈ commandTable) (m : Mode) (a : Byte)
    (p : Seq) (s : State) : exec (row.2 m a p) s = encodeIn m a row.1 p s :=
  exec_of_encode_command (encode_of_mem_commandTable h m a p) s

/-- R59: whatever its code, a frame command is executed by the encoder of its mode. -/
theorem exec_decodeCommand (code : Byte) (m : Mode) (a : Byte) (p : Seq) (s : State) :
    exec (decodeCommand code m a p) s = encodeIn m a code p s := by
  cases hrow : commandTable.lookup code with
  | some mk => exact exec_of_encode_command (encode_decodeCommand_of_lookup_some hrow m a p) s
  | none => rw [decodeCommand_of_lookup_none hrow, exec_encodeInMode]

theorem toNat_le_of_preamble {a : Byte} {pre : Preamble} (h : preamble a = some pre) : a.toNat ≤ 40 :=
  (preamble_isSome_iff a).mp (Option.isSome_of_eq_some h)

/-- R82 with the preamble at hand. -/
theorem encodeIn_md_of_preamble {a : Byte} {pre : Preamble} {p : Seq} (hpre : preamble a = some pre)
    (hp : p.length ≤ Config.maxPayload) (cmd : Byte) (s : State) : encodeIn .md a cmd p s =
      .next ((s.setCid (nextCid s.cid)).receive (.ok (some (.seq (frameMd pre a cmd s.cid p))))) := by
  obtain ⟨pre', hpre', hexec⟩ := exec_encMd_of_valid (toNat_le_of_preamble hpre) hp cmd s
  obtain rfl : pre = pre' := Option.some.inj (hpre.symm.trans hpre')
  exact hexec

/-- Settles O42: the frames of ENC_MD and ENC_P2P with the code of the row. -/
theorem commandCodesAreFramedInEitherMode : Obligations.CommandCodesAreFramedInEitherMode := by
  intro row hrow
  have hexec := exec_of_mem_commandTable hrow
  refine ⟨fun a p s pre hpre hp => ?md, fun a p s hp => ?p2p⟩
  case md =>
    rw [hexec, encodeIn_md_of_preamble hpre hp]
    rfl
  case p2p =>
    rw [hexec]
    exact exec_encP2p_of_valid hp a row.1 s

/-- Settles O43: the checks of ENC_MD and ENC_P2P. -/
theorem commandCodesRaiseLikeTheEncoders : Obligations.CommandCodesRaiseLikeTheEncoders := by
  intro mk hmk
  obtain ⟨row, hrow, rfl⟩ : ∃ row ∈ commandTable, row.2 = mk := List.mem_map.mp hmk
  have hexec := exec_of_mem_commandTable hrow
  exact ⟨fun a p s ha => (hexec .md a p s).trans (exec_encMd_of_bad_address ha row.1 p s),
    fun a p s ha hp => (hexec .md a p s).trans (exec_encMd_of_payload_too_long ha hp row.1 s),
    fun a p s hp => (hexec .p2p a p s).trans (exec_encP2p_of_payload_too_long hp a row.1 s)⟩

/-- A step at an event that is an instruction executes it (R8, R33). -/
theorem step_of_op {s : State} {e : HostEvent} {rest : List HostEvent} {i : Instr} (hp : s.pending = e :: rest)
    (hd : decode e = .op i) : step s = exec i (s.withPending rest) := by
  simp [step, hp, hd]

/-- Settles O44: both events are served by the encoder of the mode, on the same state. -/
theorem commandEventIsItsEncodeRequest : Obligations.CommandEventIsItsEncodeRequest := by
  rintro code m a p s t rest hs rfl
  rw [step_of_op hs rfl, exec_decodeCommand]
  cases m with
  | md => exact Eq.symm (step_of_op rfl (decode_encode (.encMd a code p)))
  | p2p => exact Eq.symm (step_of_op rfl (decode_encode (.encP2p a code p)))

end Sys2Proof.Machine
end

section
/-!
Proofs, family other: frames against the decoders. The round trips (O35, O36), that nothing but a frame is accepted (O37),
corruption of one byte (O38, O39), one trailing zero (O40), the two modes (O41) and the bytes of a preamble (O27).
-/

namespace Sys2Proof.Machine

/-! ## Round trips -/

/-- The CRC field of a frame, put together again, is the CRC of the covered bytes. -/
theorem crc16_fields_eq_crc_field (a cmd : Byte) (id : Word) (p : Seq) :
    crc16 ([SEP, a, cmd, id.extractLsb' 8 8, id.extractLsb' 0 8] ++ p) =
      (crc16 (cover a cmd id p)).extractLsb' 8 8 ++ (crc16 (cover a cmd id p)).extractLsb' 0 8 :=
  (be16_bytes (crc16 (cover a cmd id p))).symm

/-- DEC_MD reads a frame's fields back. -/
theorem decodeMd_frameMd {pre : Preamble} {a : Byte} {p : Seq} (hpre : preamble a = some pre)
    (hp : p.length ≤ Config.maxPayload) (cmd : Byte) (id : Word) :
    decodeMd (frameMd pre a cmd id p) =
      .ok { preamble := some pre, address := a, commandCode := cmd, commandId := id, payload := p,
            crc := crc16 (cover a cmd id p) } := by
  rw [frameMd_parts, decodeMd_parts_of_valid cmd hp (crc16_fields_eq_crc_field a cmd id p) hpre, be16_bytes, be16_bytes]

/-- DEC_P2P reads a frame's fields back, whatever its id. -/
theorem decodeP2p_body {p : Seq} (hp : p.length ≤ Config.maxPayload) (a cmd : Byte) (id : Word) :
    decodeP2p (body a cmd id p) =
      .ok { preamble := none, address := a, commandCode := cmd, commandId := id, payload := p,
            crc := crc16 (cover a cmd id p) } := by
  rw [body_parts, decodeP2p_parts_of_valid a cmd hp (crc16_fields_eq_crc_field a cmd id p), be16_bytes, be16_bytes]

/-- Settles O35: the frame that a valid ENC_MD returns, decoded in any state. -/
theorem mdFrameRoundTrip : Obligations.MdFrameRoundTrip := by
  intro s a cmd p ha hp
  obtain ⟨pre, hpre, hexec⟩ := exec_encMd_of_valid ha hp cmd s
  refine ⟨_, frameMd pre a cmd s.cid p, hexec, rfl, fun u => ?_⟩
  rw [hpre]
  exact exec_decMd_of_ok (decodeMd_frameMd hpre hp cmd s.cid) u

/-- Settles O36: the frame that a valid ENC_P2P returns, decoded in any state. -/
theorem p2pFrameRoundTrip : Obligations.P2pFrameRoundTrip := fun s a cmd p hp =>
  ⟨_, frameP2p a cmd p, exec_encP2p_of_valid hp a cmd s, rfl, exec_decP2p_of_ok (decodeP2p_body hp a cmd 0x0000#16)⟩

/-! ## What the decoders accept -/

/-- A sequence whose CRC field is the CRC of its covered bytes is a body. -/
theorem body_of_fields {a cmd ih il ch cl : Byte} {p : Seq} (hcrc : crc16 ([SEP, a, cmd, ih, il] ++ p) = ch ++ cl) :
    [SEP, a, cmd, ih, il] ++ p ++ [ch, cl] = body a cmd (ih ++ il) p ∧ ch ++ cl = crc16 (cover a cmd (ih ++ il) p) := by
  have hcover : cover a cmd (ih ++ il) p = [SEP, a, cmd, ih, il] ++ p := by rw [cover, be16_append]; rfl
  rw [body, hcover, hcrc, be16_append]
  exact ⟨rfl, rfl⟩

/-- R85 read backwards: what DEC_MD returns, laid out again, is what it was given. -/
theorem frameMd_of_decodeMd {f : Seq} {r : Frame} (h : decodeMd f = .ok r) :
    ∃ pre : Preamble, r.preamble = some pre ∧ preamble r.address = some pre ∧
      f = frameMd pre r.address r.commandCode r.commandId r.payload ∧ r.payload.length ≤ Config.maxPayload ∧
      r.crc = crc16 (cover r.address r.commandCode r.commandId r.payload) := by
  rcases Nat.lt_or_ge f.length 10 with hshort | hlong
  · rw [decodeMd_of_truncated hshort] at h
    cases h
  obtain ⟨x0, x1, x2, sep, a, cmd, ih, il, p, ch, cl, rfl⟩ := md_parts_of_length hlong
  rw [decodeMd_parts] at h
  split_ifs at h with hp hcrc hsep
  cases hpre : preamble a with
  | none => rw [hpre] at h; cases h
  | some pre =>
    rw [hpre] at h
    dsimp only at h
    split_ifs at h with hne
    obtain rfl := not_not.mp hsep
    obtain rfl := not_not.mp hne
    cases h
    obtain ⟨hbody, hown⟩ := body_of_fields (not_not.mp hcrc)
    exact ⟨⟨x0, x1, x2⟩, rfl, hpre, congrArg (Preamble.toSeq ⟨x0, x1, x2⟩ ++ ·) hbody, Nat.not_lt.mp hp, hown⟩

/-- R86 read backwards. -/
theorem body_of_decodeP2p {f : Seq} {r : Frame} (h : decodeP2p f = .ok r) :
    r.preamble = none ∧ f = body r.address r.commandCode r.commandId r.payload ∧
      r.payload.length ≤ Config.maxPayload ∧
      r.crc = crc16 (cover r.address r.commandCode r.commandId r.payload) := by
  rcases Nat.lt_or_ge f.length 7 with hshort | hlong
  · rw [decodeP2p_of_truncated hshort] at h
    cases h
  obtain ⟨sep, a, cmd, ih, il, p, ch, cl, rfl⟩ := p2p_parts_of_length hlong
  rw [decodeP2p_parts] at h
  split_ifs at h with hp hcrc hsep
  obtain rfl := not_not.mp hsep
  cases h
  obtain ⟨hbody, hown⟩ := body_of_fields (not_not.mp hcrc)
  exact ⟨rfl, hbody, Nat.not_lt.mp hp, hown⟩

/-- A decode that returns a record had that record from its checks. -/
theorem eq_ok_of_answerDecode {d : Except Error Frame} {s t : State} {r : Frame} (h : answerDecode d s = .next t)
    (hres : t.results = s.results ++ [.ok (some (.frame r))]) : d = .ok r := by
  rcases answerDecode_cases d s with ⟨r', rfl, hnext⟩ | ⟨e, rfl, hnext⟩ <;>
    obtain rfl := Host.Outcome.next.inj (hnext.symm.trans h)
  · obtain rfl : r' = r := by simpa using hres
    rfl
  · simp at hres

/-- Settles O37: the record comes from the checks, and these pass for a frame only. -/
theorem decodersAcceptOnlyFrames : Obligations.DecodersAcceptOnlyFrames :=
  ⟨fun _ _ _ _ hexec hres => frameMd_of_decodeMd (eq_ok_of_answerDecode hexec hres),
    fun _ _ _ _ hexec hres => body_of_decodeP2p (eq_ok_of_answerDecode hexec hres)⟩

/-! ## Corruption of one byte -/

theorem byteAt_append_right {q : Seq} {k : Nat} (r : Seq) (h : q.length ≤ k) : byteAt (q ++ r) k = byteAt r (k - q.length) := by
  simp [byteAt, List.getD, List.getElem?_append_right h]

theorem bitAt_set_of_ne (q : Seq) {j k : Nat} (b : Byte) (h : j / 8 ≠ k) : bitAt (q.set k b) j = bitAt q j := by
  simp [bitAt, byteAt, List.getD, List.getElem?_set_ne h.symm]

/-- One byte is a burst of eight bits, so a sequence of residue 0 keeps it under no change of one byte. -/
theorem crc16_set_ne_zero {q : Seq} {k : Nat} {b : Byte} (hq : crc16 q = 0x0000#16) (hk : k < q.length)
    (hb : b ≠ byteAt q k) : crc16 (q.set k b) ≠ 0x0000#16 := by
  intro hzero
  have hwin : ∀ j, bitAt (q.set k b) j ≠ bitAt q j → 8 * k ≤ j ∧ j < 8 * k + 16 := by
    intro j hj
    have : j / 8 = k := by_contra fun hne => hj (bitAt_set_of_ne q b hne)
    omega
  have hsame : q.set k b = q := eq_of_crc16_eq_of_burst (8 * k) List.length_set hwin (hzero.trans hq.symm)
  have hread : byteAt (q.set k b) k = b := by simp [byteAt, List.getD, hk]
  exact hb (by rw [← hread, hsame])

theorem crc16_body (a cmd : Byte) (id : Word) (p : Seq) : crc16 (body a cmd id p) = 0x0000#16 :=
  crc16_append_own_crc (cover a cmd id p)

/-- A CRC field that leaves a residue is not the CRC of the bytes before it. -/
theorem crc16_ne_of_residue_ne {q : Seq} {ch cl : Byte} (h : crc16 (q ++ [ch, cl]) ≠ 0x0000#16) : crc16 q ≠ ch ++ cl := by
  intro heq
  rw [← be16_append, ← heq] at h
  exact h (crc16_append_own_crc q)

/-- A sequence of a P2P frame's length with a residue other than 0 is a CRC mismatch for DEC_P2P. -/
theorem decodeP2p_of_residue_ne {g : Seq} (hmin : 7 ≤ g.length) (hmax : g.length ≤ 7 + Config.maxPayload)
    (hres : crc16 g ≠ 0x0000#16) : decodeP2p g = .error .crcMismatch := by
  obtain ⟨sep, a, cmd, ih, il, p, ch, cl, rfl⟩ := p2p_parts_of_length hmin
  have hp : ¬ Config.maxPayload < p.length := by simp at hmax; omega
  rw [decodeP2p_parts, if_neg hp, if_pos (crc16_ne_of_residue_ne hres)]

/-- Behind any preamble it is one for DEC_MD, which checks the CRC first. -/
theorem decodeMd_of_residue_ne {g : Seq} (x : Preamble) (hmin : 7 ≤ g.length) (hmax : g.length ≤ 7 + Config.maxPayload)
    (hres : crc16 g ≠ 0x0000#16) : decodeMd (x.toSeq ++ g) = .error .crcMismatch := by
  obtain ⟨sep, a, cmd, ih, il, p, ch, cl, rfl⟩ := p2p_parts_of_length hmin
  have hp : ¬ Config.maxPayload < p.length := by simp at hmax; omega
  have hparts := decodeMd_parts x.b0 x.b1 x.b2 sep a cmd ih il p ch cl
  rw [if_neg hp, if_pos (crc16_ne_of_residue_ne hres)] at hparts
  exact hparts

/-- A frame behind another preamble than its address selects passes every check but the last. -/
theorem decodeMd_of_wrong_preamble {pre x : Preamble} {a : Byte} {p : Seq} (hpre : preamble a = some pre) (hx : x ≠ pre)
    (hp : p.length ≤ Config.maxPayload) (cmd : Byte) (id : Word) :
    decodeMd (x.toSeq ++ body a cmd id p) = .error .badPreamble := by
  have hparts := decodeMd_parts x.b0 x.b1 x.b2 SEP a cmd (id.extractLsb' 8 8) (id.extractLsb' 0 8) p
    ((crc16 (cover a cmd id p)).extractLsb' 8 8) ((crc16 (cover a cmd id p)).extractLsb' 0 8)
  rw [if_neg (Nat.not_lt.mpr hp), if_neg (not_not.mpr (crc16_fields_eq_crc_field a cmd id p)),
    if_neg (not_not.mpr rfl), hpre] at hparts
  exact hparts.trans (if_pos hx)

/-- A change of one preamble byte gives another preamble. -/
theorem set_toSeq_append {pre : Preamble} {k : Nat} {b : Byte} (g : Seq) (hk : k < 3) (hb : b ≠ byteAt (pre.toSeq ++ g) k) :
    ∃ x : Preamble, x ≠ pre ∧ (pre.toSeq ++ g).set k b = x.toSeq ++ g := by
  obtain ⟨b0, b1, b2⟩ := pre
  match k, hk with
  | 0, _ => exact ⟨⟨b, b1, b2⟩, fun h => hb (congrArg Preamble.b0 h), rfl⟩
  | 1, _ => exact ⟨⟨b0, b, b2⟩, fun h => hb (congrArg Preamble.b1 h), rfl⟩
  | 2, _ => exact ⟨⟨b0, b1, b⟩, fun h => hb (congrArg Preamble.b2 h), rfl⟩

/-- Settles O38: the change stands in the preamble, which no CRC covers, or it leaves a residue. -/
theorem mdSingleByteCorruptionIsDetected : Obligations.MdSingleByteCorruptionIsDetected := by
  rintro pre a cmd id p f k b s hpre hp rfl hk hb
  refine exec_decMd_of_error ?_ s
  by_cases hpart : k < 3
  · obtain ⟨x, hx, hset⟩ := set_toSeq_append (body a cmd id p) hpart hb
    rw [if_pos hpart, frameMd, hset]
    exact decodeMd_of_wrong_preamble hpre hx hp cmd id
  · have hpre3 : pre.toSeq.length ≤ k := Nat.not_lt.mp hpart
    rw [frameMd, byteAt_append_right _ hpre3] at hb
    rw [frameMd, List.length_append] at hk
    rw [if_neg hpart, frameMd, List.set_append_right k b hpre3]
    exact decodeMd_of_residue_ne pre (by simp) (by simpa using hp) (crc16_set_ne_zero (crc16_body a cmd id p) (by omega) hb)

/-- Settles O39: every byte of a P2P frame is covered or its CRC. -/
theorem p2pSingleByteCorruptionIsDetected : Obligations.P2pSingleByteCorruptionIsDetected := by
  rintro a cmd p f k b s hp rfl hk hb
  exact exec_decP2p_of_error
    (decodeP2p_of_residue_ne (by simp) (by simpa using hp) (crc16_set_ne_zero (crc16_body a cmd 0x0000#16 p) hk hb)) s

/-! ## One trailing zero -/

/-- The CRC field of the longer frame: the low byte of the old one, then the zero. -/
theorem low_byte_append_zero (r : Word) : (r.extractLsb' 0 8 : Byte) ++ 0x00#8 = r <<< 8 := by
  apply BitVec.eq_of_getLsbD_eq
  intro i hi
  simp only [BitVec.getLsbD_append, BitVec.getLsbD_extractLsb', BitVec.getLsbD_shiftLeft]
  rcases Nat.lt_or_ge i 8 with h | h
  · simp [h]
  · simp [show ¬ i < 8 by omega, show i - 8 < 8 by omega, hi]

/-- The old CRC's high byte, covered as payload, only shifts the CRC. -/
theorem crc16_cover_own_high (a cmd : Byte) (id : Word) (p : Seq) :
    crc16 (cover a cmd id (p ++ [(crc16 (cover a cmd id p)).extractLsb' 8 8])) = crc16 (cover a cmd id p) <<< 8 := by
  have hsplit : ∀ b, cover a cmd id (p ++ [b]) = cover a cmd id p ++ [b] := fun b => by simp [cover]
  rw [hsplit, crc16, crcFrom_append]
  exact crcByte_own_high _

/-- One trailing zero makes the body of the payload that ends in the old CRC's high byte. -/
theorem body_append_zero (a cmd : Byte) (id : Word) (p : Seq) :
    body a cmd id p ++ [0x00#8] = body a cmd id (p ++ [(crc16 (cover a cmd id p)).extractLsb' 8 8]) := by
  rw [body, body, crc16_cover_own_high, ← low_byte_append_zero, be16_append]
  simp [cover, be16]

/-- Settles O40: the longer sequence is a frame of its own, which each decoder reads back. -/
theorem trailingZeroExtendsThePayload : Obligations.TrailingZeroExtendsThePayload := by
  constructor
  · rintro pre a cmd id r p s hpre hp rfl
    have hframe : frameMd pre a cmd id p ++ [0x00#8] =
        frameMd pre a cmd id (p ++ [(crc16 (cover a cmd id p)).extractLsb' 8 8]) := by
      rw [frameMd, frameMd, List.append_assoc, body_append_zero]
    rw [hframe, ← crc16_cover_own_high]
    exact exec_decMd_of_ok (decodeMd_frameMd hpre (by simpa using hp) cmd id) s
  · rintro a cmd r p s hp rfl
    rw [frameP2p, body_append_zero, ← crc16_cover_own_high]
    exact exec_decP2p_of_ok (decodeP2p_body (by simpa using hp) a cmd 0x0000#16) s

/-! ## The two modes -/

/-- Settles O41: the byte that stands where DEC_P2P looks for the separator is 0x00. -/
theorem mdFrameIsNoP2pFrame : Obligations.MdFrameIsNoP2pFrame := by
  intro pre a cmd id p s hpre
  have hsep : pre.b0 ≠ SEP := by rw [preamble_first_byte hpre]; decide
  have hparts := decodeP2p_parts pre.b0 pre.b1 pre.b2 SEP a (cmd :: id.extractLsb' 8 8 :: id.extractLsb' 0 8 :: p)
    ((crc16 (cover a cmd id p)).extractLsb' 8 8) ((crc16 (cover a cmd id p)).extractLsb' 0 8)
  split_ifs at hparts with hlong hcrc
  · exact ⟨.payloadTooLong, by decide, exec_decP2p_of_error hparts s, fun hle => by simp at hlong; omega⟩
  · exact ⟨.crcMismatch, by decide, exec_decP2p_of_error hparts s, fun _ => by decide⟩
  · exact ⟨.badSeparator, by decide, exec_decP2p_of_error hparts s, fun _ => by decide⟩

/-! ## The bytes of a preamble -/

/-- R54, row by row. -/
theorem preamble_bytes {a : Byte} {pre : Preamble} (h : preamble a = some pre) : pre.b0 = 0x00#8 ∧ pre.b2 = ~~~pre.b1 := by
  unfold preamble at h
  split_ifs at h <;> cases h <;> decide

/-- Settles O27: the rows' bytes, and the group's row by O26. -/
theorem preambleBytesAreComplementary : Obligations.PreambleBytesAreComplementary := by
  refine ⟨fun a pre => preamble_bytes, fun g a pre hg1 hg5 hlo hhi hpre => ?group⟩
  obtain ⟨_, h1, h2, h3, h4, h5, _⟩ := preambleFollowsTheTable a
  match g, hg1, hg5 with
  | 1, _, _ => cases (h1 ⟨hlo, hhi⟩).symm.trans hpre; rfl
  | 2, _, _ => cases (h2 ⟨hlo, hhi⟩).symm.trans hpre; rfl
  | 3, _, _ => cases (h3 ⟨hlo, hhi⟩).symm.trans hpre; rfl
  | 4, _, _ => cases (h4 ⟨hlo, hhi⟩).symm.trans hpre; rfl
  | 5, _, _ => cases (h5 ⟨hlo, hhi⟩).symm.trans hpre; rfl

end Sys2Proof.Machine
end

section
/-!
Proofs, family other: what an operation answers and what it ignores. One result of the row's type or an error of the row
(O50, O52), the registers that do not matter to it (O54), and repeated operations (O55).
-/

namespace Sys2Proof

open Sys2Proof.Machine

/-- A case split over the instructions in which the ten command codes are one case: what encodes as a frame command. -/
theorem Instr.cases_request_or_command {motive : Instr → Prop} (crcInit : motive .crcInit)
    (crcUpdate : ∀ d, motive (.crcUpdate d)) (crcRead : motive .crcRead) (crcCompute : ∀ q, motive (.crcCompute q))
    (preSel : ∀ a, motive (.preSel a)) (cidRead : motive .cidRead) (encMd : ∀ a cmd p, motive (.encMd a cmd p))
    (encP2p : ∀ a cmd p, motive (.encP2p a cmd p)) (decMd : ∀ f, motive (.decMd f)) (decP2p : ∀ f, motive (.decP2p f))
    (command : ∀ i code m a p, encode i = .command code m a p → motive i) (i : Instr) : motive i := by
  cases i with
  | crcInit => exact crcInit
  | crcUpdate d => exact crcUpdate d
  | crcRead => exact crcRead
  | crcCompute q => exact crcCompute q
  | preSel a => exact preSel a
  | cidRead => exact cidRead
  | encMd a cmd p => exact encMd a cmd p
  | encP2p a cmd p => exact encP2p a cmd p
  | decMd f => exact decMd f
  | decP2p f => exact decP2p f
  | phaseShifterSetDelayLineSet m a p | attenuatorSet m a p | vipOnOff m a p | ppmSwitch m a p | beamQueueAppend m a p
  | taskReset m a p | calibrationBenchMode m a p | beamCalibrationMode m a p | telemetryRequestP2p m a p
  | telemetryRequestStatusProbeVariant m a p => exact command _ _ m a p rfl

/-- The values that an instruction can return with status OK (R41, R43). -/
def Instr.mayReturn (i : Instr) (v : Option Value) : Prop :=
  match i with
  | .crcInit | .crcUpdate _ => v = none
  | .crcRead | .crcCompute _ | .cidRead => ∃ w, v = some (.u16 w)
  | .preSel _ => ∃ q, v = some (.seq q) ∧ q.length = 3
  | .decMd f => ∃ r, v = some (.frame r) ∧ decodeMd f = .ok r
  | .decP2p f => ∃ r, v = some (.frame r) ∧ decodeP2p f = .ok r
  | _ => ∃ q, v = some (.seq q)

/-- The errors that an encoder can raise (R104). -/
def encoderMayRaise (m : Mode) (e : Error) : Prop := e = .payloadTooLong ∨ (m = .md ∧ e = .badAddress)

/-- The errors that an instruction can raise (60_exceptions.md section 3). -/
def Instr.mayRaise (i : Instr) (e : Error) : Prop :=
  match i with
  | .crcInit | .crcUpdate _ | .crcRead | .crcCompute _ | .cidRead => False
  | .preSel _ => e = .badAddress
  | .encMd _ _ _ => e = .badAddress ∨ e = .payloadTooLong
  | .encP2p _ _ _ => e = .payloadTooLong
  | .decMd _ => e ≠ .illegalOp
  | .decP2p _ => e = .payloadTooLong ∨ e = .truncated ∨ e = .crcMismatch ∨ e = .badSeparator
  | .phaseShifterSetDelayLineSet m _ _ | .attenuatorSet m _ _ | .vipOnOff m _ _ | .ppmSwitch m _ _
  | .beamQueueAppend m _ _ | .taskReset m _ _ | .calibrationBenchMode m _ _ | .beamCalibrationMode m _ _
  | .telemetryRequestP2p m _ _ | .telemetryRequestStatusProbeVariant m _ _ => encoderMayRaise m e

/-- The instructions that read or write CRC. -/
def Instr.usesCrc (i : Instr) : Prop :=
  i = .crcInit ∨ (∃ d, i = .crcUpdate d) ∨ i = .crcRead ∨ ∃ q, i = .crcCompute q

/-- The instructions that read or write CID: CID_READ, and the encoders in MD mode. -/
def Instr.usesCid (i : Instr) : Prop :=
  i = .cidRead ∨ (∃ a cmd p, i = .encMd a cmd p) ∨ ∃ code a p, encode i = .command code .md a p

end Sys2Proof

namespace Sys2Proof.Machine

/-! ## One result of the row's type -/

/-- The operation begun in `s` ends in one result more, an OK one whose value is of `values` or an error of `errors`. -/
def Answers (s : State) (o : Out) (values : Option Value → Prop) (errors : Error → Prop) : Prop :=
  ∃ (t : State) (r : Result), o = .next t ∧ t.results = s.results ++ [r] ∧ t.pending = s.pending ∧
    ((∃ v, r = .ok v ∧ values v) ∨ ∃ e, r = .error e ∧ errors e)

section
variable {s : State} {o : Out} {values : Option Value → Prop} {errors : Error → Prop}

theorem answers_ok {t : State} {v : Option Value} (h : o = .next (t.receive (.ok v))) (hv : values v)
    (hres : t.results = s.results := by rfl) (hpend : t.pending = s.pending := by rfl) : Answers s o values errors :=
  ⟨_, _, h, by rw [State.receive_results, hres], hpend, .inl ⟨v, rfl, hv⟩⟩

theorem answers_error {e : Error} (h : o = .next (s.receive (.error e))) (he : errors e) : Answers s o values errors :=
  ⟨_, _, h, rfl, rfl, .inr ⟨e, rfl, he⟩⟩

/-- The last result tells which of the two ends it was. -/
theorem Answers.errors_of_results (h : Answers s o values errors) {t : State} {e : Error} (ho : o = .next t)
    (hres : t.results = s.results ++ [.error e]) : errors e := by
  obtain ⟨t', r, hnext, hr, -, hend⟩ := h
  obtain rfl : t = t' := Host.Outcome.next.inj (ho.symm.trans hnext)
  obtain rfl : r = .error e := by simpa [hr] using hres
  rcases hend with ⟨v, hv, -⟩ | ⟨e', he', herr⟩
  · cases hv
  · cases he'
    exact herr

end

theorem encodeIn_answers (m : Mode) (a cmd : Byte) (p : Seq) (s : State) :
    Answers s (encodeIn m a cmd p s) (fun v => ∃ q, v = some (.seq q)) (encoderMayRaise m) := by
  cases m with
  | md =>
    rcases encodeMd_cases a cmd p s with ⟨_, h⟩ | ⟨_, _, h⟩ | ⟨_, _, _, _, h⟩
    · exact answers_error h (.inr ⟨rfl, rfl⟩)
    · exact answers_error h (.inl rfl)
    · exact answers_ok h ⟨_, rfl⟩
  | p2p =>
    rcases encodeP2p_cases a cmd p s with ⟨_, h⟩ | ⟨_, h⟩
    · exact answers_error h (.inl rfl)
    · exact answers_ok h ⟨_, rfl⟩

theorem answerDecode_answers {d : Except Error Frame} {errors : Error → Prop} (herr : ∀ e, d = .error e → errors e)
    (s : State) : Answers s (answerDecode d s) (fun v => ∃ r, v = some (.frame r) ∧ d = .ok r) errors := by
  rcases answerDecode_cases d s with ⟨r, hr, h⟩ | ⟨e, he, h⟩
  · exact answers_ok h ⟨r, rfl, hr⟩
  · exact answers_error h (herr e he)

/-- R85: none of DEC_MD's checks raises ILLEGAL_OP. -/
theorem ne_illegalOp_of_decodeMd {f : Seq} {e : Error} (h : decodeMd f = .error e) : e ≠ .illegalOp := by
  unfold decodeMd at h
  split_ifs at h
  case neg =>
    cases hpre : preamble (byteAt f 4) with
    | none => rw [hpre] at h; cases h; decide
    | some pre =>
      rw [hpre] at h
      dsimp only at h
      split_ifs at h
      cases h; decide
  all_goals cases h; decide

/-- R86: the four checks of DEC_P2P. -/
theorem error_of_decodeP2p {f : Seq} {e : Error} (h : decodeP2p f = .error e) :
    e = .payloadTooLong ∨ e = .truncated ∨ e = .crcMismatch ∨ e = .badSeparator := by
  unfold decodeP2p at h
  split_ifs at h <;> cases h <;> decide

theorem exec_preSel_answers (a : Byte) (s : State) :
    Answers s (exec (.preSel a) s) (Instr.preSel a).mayReturn (Instr.preSel a).mayRaise := by
  rcases Nat.lt_or_ge 40 a.toNat with ha | ha
  · exact answers_error (exec_preSel_of_bad_address ha s) rfl
  · obtain ⟨pre, hpre⟩ := preamble_of_le ha
    exact answers_ok (exec_preSel_of_preamble hpre s) ⟨_, rfl, rfl⟩

/-- Every operation, in every state, ends in one result of its row. -/
theorem exec_answers (i : Instr) (s : State) : Answers s (exec i s) i.mayReturn i.mayRaise := by
  cases i with
  | crcInit => exact answers_ok (t := s.setCrc _) rfl rfl
  | crcUpdate d => exact answers_ok (t := s.setCrc _) rfl rfl
  | crcCompute q => exact answers_ok (t := s.setCrc _) rfl ⟨_, rfl⟩
  | crcRead | cidRead => exact answers_ok (t := s) rfl ⟨_, rfl⟩
  | preSel a => exact exec_preSel_answers a s
  | encMd a cmd p =>
    obtain ⟨t, r, h, hres, hpend, hend⟩ := encodeIn_answers .md a cmd p s
    exact ⟨t, r, h, hres, hpend, hend.imp_right fun ⟨e, he, herr⟩ => ⟨e, he, herr.symm.imp_left And.right⟩⟩
  | encP2p a cmd p =>
    obtain ⟨t, r, h, hres, hpend, hend⟩ := encodeIn_answers .p2p a cmd p s
    exact ⟨t, r, h, hres, hpend, hend.imp_right fun ⟨e, he, herr⟩ => ⟨e, he, herr.resolve_right nofun⟩⟩
  | decMd f => exact answerDecode_answers (fun _ => ne_illegalOp_of_decodeMd) s
  | decP2p f => exact answerDecode_answers (fun _ => error_of_decodeP2p) s
  | phaseShifterSetDelayLineSet m a p | attenuatorSet m a p | vipOnOff m a p | ppmSwitch m a p | beamQueueAppend m a p
  | taskReset m a p | calibrationBenchMode m a p | beamCalibrationMode m a p | telemetryRequestP2p m a p
  | telemetryRequestStatusProbeVariant m a p => exact encodeIn_answers m a _ p s

theorem status_of_error_ne_zero (e : Error) : (Result.error e).status ≠ 0#8 := by
  cases e <;> decide

/-- Settles O50: the result of `exec_answers`; its value is of the type of the instruction's row. -/
theorem everyOperationAnswersOneResult : Obligations.EveryOperationAnswersOneResult := by
  intro i s
  obtain ⟨t, r, hexec, hres, hpend, ⟨v, rfl, hv⟩ | ⟨e, rfl, _⟩⟩ := exec_answers i s
  · refine ⟨t, _, hexec, hres, hpend, .inl ⟨rfl, v, rfl, rfl, ?_⟩⟩
    cases i
    case decMd | decP2p => exact hv.imp fun _ => And.left
    all_goals exact hv
  · exact ⟨t, _, hexec, hres, hpend, .inr ⟨status_of_error_ne_zero e, rfl, e, rfl⟩⟩

/-- Settles O52: the errors of `exec_answers`. -/
theorem statusesEachOperationCanReturn : Obligations.StatusesEachOperationCanReturn := fun i s _ _ hexec hres =>
  (exec_answers i s).errors_of_results hexec hres

/-- Settles O53: the numbers by evaluation, and their bound error by error. -/
theorem statusCodesAreNumbered : Obligations.StatusCodesAreNumbered := by
  refine ⟨fun _ => rfl, rfl, rfl, rfl, rfl, rfl, rfl, rfl, fun r => ?bound⟩
  cases r with
  | ok v => exact (by decide : (0#8).toNat < 8)
  | error e => cases e <;> decide

/-! ## What an operation ignores -/

/-- An update of the state before the operation is the same update after it. -/
def Ignores (op : State → Out) (f : State → State) : Prop :=
  ∀ s t, op s = .next t → op (f s) = .next (f t)

/-- The update neither changes CRC nor overwrites it. -/
def KeepsCrc (f : State → State) : Prop := (∀ s, (f s).crc = s.crc) ∧ ∀ s v, f (s.setCrc v) = (f s).setCrc v

/-- The update neither changes CID nor overwrites it. -/
def KeepsCid (f : State → State) : Prop := (∀ s, (f s).cid = s.cid) ∧ ∀ s v, f (s.setCid v) = (f s).setCid v

section
variable {f : State → State} (hrec : ∀ s r, f (s.receive r) = (f s).receive r)
include hrec

theorem ret_ignores (v : Option Value) : Ignores (ret v) f := by
  intro s t h
  rw [ret_next h, ret, hrec]

theorem raise_ignores (e : Error) : Ignores (raise e) f := by
  intro s t h
  rw [raise_next h, raise, hrec]

theorem answerDecode_ignores (d : Except Error Frame) : Ignores (answerDecode d) f := by
  cases d with
  | ok r => exact ret_ignores hrec _
  | error e => exact raise_ignores hrec e

theorem exec_preSel_ignores (a : Byte) : Ignores (exec (.preSel a)) f := by
  intro s t h
  rw [exec, execPreSel] at h ⊢
  cases hpre : preamble a with
  | none => rw [hpre] at h; exact raise_ignores hrec _ s t h
  | some pre => rw [hpre] at h; exact ret_ignores hrec _ s t h

theorem encodeP2p_ignores (a cmd : Byte) (p : Seq) : Ignores (encodeP2p a cmd p) f := by
  intro s t h
  rw [encodeP2p] at h ⊢
  cases hp : lenOk p with
  | true => rw [hp] at h; exact ret_ignores hrec _ s t h
  | false => rw [hp] at h; exact raise_ignores hrec _ s t h

theorem encodeMd_ignores (hcid : KeepsCid f) (a cmd : Byte) (p : Seq) : Ignores (encodeMd a cmd p) f := by
  obtain ⟨hread, hwrite⟩ := hcid
  intro s t h
  rw [encodeMd] at h ⊢
  cases hpre : preamble a with
  | none => rw [hpre] at h; exact raise_ignores hrec _ s t h
  | some pre =>
    rw [hpre] at h
    cases hp : lenOk p with
    | true =>
      simp only [hp, if_true, hread, ← hwrite] at h ⊢
      exact ret_ignores hrec _ _ t h
    | false =>
      simp only [hp] at h ⊢
      exact raise_ignores hrec _ s t h

/-- What leaves alone the registers that an instruction uses does not matter to it. -/
theorem exec_ignores (i : Instr) (hcrc : i.usesCrc → KeepsCrc f) (hcid : i.usesCid → KeepsCid f) :
    Ignores (exec i) f := by
  cases i using Instr.cases_request_or_command with
  | crcInit =>
    obtain ⟨_, hwrite⟩ := hcrc (.inl rfl)
    intro s t h
    have := ret_ignores hrec none _ t h
    rwa [hwrite] at this
  | crcUpdate d =>
    obtain ⟨hread, hwrite⟩ := hcrc (.inr (.inl ⟨d, rfl⟩))
    intro s t h
    have := ret_ignores hrec none _ t h
    rwa [hwrite, ← hread] at this
  | crcRead =>
    obtain ⟨hread, _⟩ := hcrc (.inr (.inr (.inl rfl)))
    intro s t h
    have := ret_ignores hrec _ _ t h
    rwa [← hread] at this
  | crcCompute q =>
    obtain ⟨_, hwrite⟩ := hcrc (.inr (.inr (.inr ⟨q, rfl⟩)))
    intro s t h
    have := ret_ignores hrec _ _ t h
    rwa [hwrite] at this
  | preSel a => exact exec_preSel_ignores hrec a
  | cidRead =>
    obtain ⟨hread, _⟩ := hcid (.inl rfl)
    intro s t h
    have := ret_ignores hrec _ _ t h
    rwa [← hread] at this
  | encMd a cmd p => exact encodeMd_ignores hrec (hcid (.inr (.inl ⟨a, cmd, p, rfl⟩))) a cmd p
  | encP2p a cmd p => exact encodeP2p_ignores hrec a cmd p
  | decMd q => exact answerDecode_ignores hrec (decodeMd q)
  | decP2p q => exact answerDecode_ignores hrec (decodeP2p q)
  | command i code m a p henc =>
    rw [show exec i = encodeIn m a code p from funext (exec_of_encode_command henc)]
    cases m with
    | md => exact encodeMd_ignores hrec (hcid (.inr (.inr ⟨code, a, p, henc⟩))) a code p
    | p2p => exact encodeP2p_ignores hrec a code p

end

theorem exec_ignores_withPending (i : Instr) (es : List HostEvent) : Ignores (exec i) (·.withPending es) :=
  exec_ignores (fun _ _ => rfl) i (fun _ => ⟨fun _ => rfl, fun _ _ => rfl⟩) fun _ => ⟨fun _ => rfl, fun _ _ => rfl⟩

theorem exec_ignores_setCrc {i : Instr} (h : ¬ i.usesCrc) (c : Word) : Ignores (exec i) (·.setCrc c) :=
  exec_ignores (fun _ _ => rfl) i (absurd · h) fun _ => ⟨fun _ => rfl, fun _ _ => rfl⟩

theorem exec_ignores_setCid {i : Instr} (h : ¬ i.usesCid) (c : Word) : Ignores (exec i) (·.setCid c) :=
  exec_ignores (fun _ _ => rfl) i (fun _ => ⟨fun _ => rfl, fun _ _ => rfl⟩) (absurd · h)

/-- Written with its own value, CRC comes out of an operation that does not use it as it went in. -/
theorem crc_of_exec {i : Instr} {s t : State} (h : ¬ i.usesCrc) (hexec : exec i s = .next t) : t.crc = s.crc := by
  have hsame : exec i s = .next (t.setCrc s.crc) := exec_ignores_setCrc h s.crc s t hexec
  have ht : t = t.setCrc s.crc := Host.Outcome.next.inj (hexec.symm.trans hsame)
  rw [ht, State.setCrc_crc]

theorem cid_of_exec {i : Instr} {s t : State} (h : ¬ i.usesCid) (hexec : exec i s = .next t) : t.cid = s.cid := by
  have hsame : exec i s = .next (t.setCid s.cid) := exec_ignores_setCid h s.cid s t hexec
  have ht : t = t.setCid s.cid := Host.Outcome.next.inj (hexec.symm.trans hsame)
  rw [ht, State.setCid_cid]

/-- What encodes as a frame command in P2P mode does not use CID. -/
theorem not_usesCid_of_encode_p2p {i : Instr} {code a : Byte} {p : Seq} (h : encode i = .command code .p2p a p) :
    ¬ i.usesCid := by
  rintro (rfl | ⟨_, _, _, rfl⟩ | ⟨_, _, _, hmd⟩)
  · cases h
  · cases h
  · cases h.symm.trans hmd

/-- Settles O54: the operations named use neither register, or not the one in question. -/
theorem untouchedRegistersDoNotMatter : Obligations.UntouchedRegistersDoNotMatter := by
  constructor
  · intro i s t c hread hupdate hcompute hinit hexec
    have huse : ¬ i.usesCrc := by
      rintro (h | ⟨d, h⟩ | h | ⟨q, h⟩)
      exacts [hinit h, hupdate d h, hread h, hcompute q h]
    exact ⟨crc_of_exec huse hexec, exec_ignores_setCrc huse c s t hexec⟩
  · intro i s t c hi hexec
    have huse : ¬ i.usesCid := by
      rcases hi with rfl | ⟨_, rfl⟩ | rfl | ⟨_, rfl⟩ | ⟨_, rfl⟩ | ⟨_, _, _, rfl⟩ | ⟨_, rfl⟩ | ⟨_, rfl⟩ |
        ⟨mk, hmk, a, p, rfl⟩
      case inr.inr.inr.inr.inr.inr.inr.inr =>
        obtain ⟨row, hrow, rfl⟩ : ∃ row ∈ commandTable, row.2 = mk := List.mem_map.mp hmk
        exact not_usesCid_of_encode_p2p (encode_of_mem_commandTable hrow .p2p a p)
      all_goals simp [Instr.usesCid, encode]
    exact ⟨cid_of_exec huse hexec, exec_ignores_setCid huse c s t hexec⟩

/-! ## Repeated operations -/

/-- An id has another successor than itself. -/
theorem nextCid_ne_self (v : Word) : nextCid v ≠ v := by
  by_cases h : v = 0xFFFF#16
  · subst h
    decide
  · intro heq
    have := nextCid_toNat_of_ne h
    rw [heq] at this
    omega

/-- Settles O55: what the two CRC operations write does not depend on CRC, and NEXT has no fixed point. -/
theorem repeatedOperations : Obligations.RepeatedOperations := by
  refine ⟨fun i s t u hi ht hu => ?repeated, fun s a cmd p ha hp => ?encoded⟩
  case repeated =>
    rcases hi with rfl | ⟨q, rfl⟩ <;> cases ht <;> cases hu <;> exact ⟨rfl, rfl⟩
  case encoded =>
    obtain ⟨pre, _, hexec⟩ := exec_encMd_of_valid ha hp cmd s
    exact ⟨_, hexec, nextCid_ne_self s.cid⟩

end Sys2Proof.Machine
end

section
/-!
Proofs, family other: steps and sequences of them. What a step serves (O6, O8, O7), that it goes on (O10), the invariant (O45,
O46, O47), the two columns of the register table (O48, O49), the ids of successive frames (O25), and the example lines
of R47 (O56).
-/

namespace Sys2Proof.Machine

/-! ## What a step serves -/

/-- Settles O6: `step_of_op`, with the event taken off the list. -/
theorem stepRunsTheDecodedInstruction : Obligations.StepRunsTheDecodedInstruction :=
  fun _ _ _ _ => step_of_op

/-- The reset event writes both registers (R107). -/
theorem step_of_reset {s : State} {rest : List HostEvent} (hp : s.pending = .reset :: rest) :
    step s = .next (((s.withPending rest).setCrc SEED).setCid firstCid) := by
  simp [step, hp, decode, resetBlock]

/-- Settles O8: SEED and the first id, written out. -/
theorem resetEventWritesBothRegisters : Obligations.ResetEventWritesBothRegisters := fun _ _ => step_of_reset

/-- No request and no frame command is taken for reset (R107). -/
theorem eq_reset_of_decode {e : HostEvent} (h : decode e = .reset) : e = .reset := by
  cases e with
  | request op os =>
    rw [decode, decodeRequest] at h
    split at h
    · cases h
    · split at h <;> cases h
  | command code m a p => cases h
  | reset => rfl

theorem exists_next_of_exec (i : Instr) (s : State) : ∃ t, exec i s = .next t := by
  obtain ⟨t, _, hexec, _⟩ := exec_answers i s
  exact ⟨t, hexec⟩

theorem pending_of_exec {i : Instr} {s t : State} (h : exec i s = .next t) : t.pending = s.pending := by
  obtain ⟨t', _, hexec, _, hpend, _⟩ := exec_answers i s
  obtain rfl : t = t' := Host.Outcome.next.inj (h.symm.trans hexec)
  exact hpend

/-- R35: with the encodings of a list pending, each step executes the next instruction. The events behind it do not matter to
the execution. -/
theorem stepTimes_of_pending_encode (is : List Instr) {s : State} {rest : List HostEvent}
    (hp : s.pending = is.map encode ++ rest) : stepTimes is.length s = execAll is (s.withPending rest) := by
  induction is generalizing s with
  | nil =>
    obtain rfl : s.pending = rest := hp
    rfl
  | cons i is ih =>
    have hp : s.pending = encode i :: (is.map encode ++ rest) := hp
    obtain ⟨t, hexec⟩ := exists_next_of_exec i (s.withPending (is.map encode ++ rest))
    have hexec' : exec i (s.withPending rest) = .next (t.withPending rest) :=
      exec_ignores_withPending i rest (s.withPending (is.map encode ++ rest)) t hexec
    rw [execAll_cons_of_next hexec', ← ih (pending_of_exec hexec), List.length_cons, stepTimes,
      step_of_op hp (decode_encode i), hexec, andThen]

/-- Settles O7: induction over the list. -/
theorem operationsTakeEffectInIssueOrder : Obligations.OperationsTakeEffectInIssueOrder := fun is _ _ =>
  stepTimes_of_pending_encode is

/-! ## A step goes on -/

/-- R45: what the decoder takes for no request is an event the block does not answer. -/
theorem answered_eq_false_of_decode_illTyped {e : HostEvent} (h : decode e = .illTyped) :
    ∃ op os, e = .request op os ∧ e.answered = false := by
  cases e with
  | request op os =>
    refine ⟨op, os, rfl, ?_⟩
    cases hop : opCodeOf op with
    | none => simp [decode, decodeRequest, hop] at h
    | some c =>
      have hrow := requestRow_of_opCodeOf hop
      have hkinds : requestRow op ≠ some (os.map Operand.kind) := by
        intro heq
        obtain ⟨i, hi⟩ := decodeRequest_of_row_eq hop heq
        cases h.symm.trans hi
      rw [hrow] at hkinds
      simpa [HostEvent.answered, hrow] using hkinds
  | command code m a p => cases h
  | reset => cases h

/-- A step answers a next state, or it refuses the oldest event, which the decoder takes for no request. -/
theorem step_next_or_illTyped (s : State) : (∃ t, step s = .next t) ∨
    ∃ e rest, s.pending = e :: rest ∧ decode e = .illTyped ∧ step s = .refused .illTypedRequest := by
  cases hp : s.pending with
  | nil => exact .inl ⟨s, by simp [step, hp, idle]⟩
  | cons e rest =>
    cases hd : decode e with
    | op i => exact .inl (step_of_op hp hd ▸ exists_next_of_exec i _)
    | illegalOp => exact .inl ⟨_, step_of_illegalOp hp hd⟩
    | illTyped => exact .inr ⟨e, rest, rfl, hd, step_of_illTyped hp hd⟩
    | reset => exact .inl ⟨_, step_of_reset (eq_reset_of_decode hd ▸ hp)⟩

theorem pending_of_step {s t : State} (h : step s = .next t) : t.pending = s.pending.tail := by
  rcases step_cases h with ⟨hp, rfl⟩ | ⟨e, rest, hp, ⟨i, _, hexec⟩ | ⟨_, rfl⟩ | ⟨_, rfl⟩⟩
  · simp [hp]
  · rw [pending_of_exec hexec, hp]; rfl
  · rw [hp]; rfl
  · rw [hp]; rfl

/-- Settles O10: of the two ends of a step, the refusal is at an event that the block does not answer. -/
theorem stepGoesOnForEveryAnsweredEvent : Obligations.StepGoesOnForEveryAnsweredEvent := by
  refine ⟨fun _ => nofun, fun s r h => ?refused, fun s hall => ?answered⟩
  case refused =>
    rcases step_next_or_illTyped s with ⟨t, hnext⟩ | ⟨e, rest, hp, hd, hrefused⟩
    · cases hnext.symm.trans h
    · obtain ⟨op, os, rfl, hans⟩ := answered_eq_false_of_decode_illTyped hd
      exact ⟨Host.Outcome.refused.inj (h.symm.trans hrefused), op, os, rest, hp, hans⟩
  case answered =>
    have hmem : ∀ e ∈ s.pending, e.answered = true := List.all_eq_true.mp hall
    rcases step_next_or_illTyped s with ⟨t, hnext⟩ | ⟨e, rest, hp, hd, _⟩
    · refine ⟨t, hnext, List.all_eq_true.mpr fun e he => hmem e ?_⟩
      exact List.mem_of_mem_tail (pending_of_step hnext ▸ he)
    · obtain ⟨_, _, _, hans⟩ := answered_eq_false_of_decode_illTyped hd
      simp [hmem e (by simp [hp])] at hans

/-! ## The two columns of the register table -/

/-- An event that decodes to an instruction is its encoding, or a frame command whose code has no instruction of its own. -/
theorem encode_eq_or_command_of_decode {e : HostEvent} {i : Instr} (h : decode e = .op i) :
    encode i = e ∨ ∃ code m a p, e = .command code m a p ∧ i = encodeInMode m a code p := by
  cases e with
  | request op os => exact .inl (encode_of_decode_request h)
  | command code m a p =>
    obtain rfl : decodeCommand code m a p = i := Decoded.op.inj h
    cases hrow : commandTable.lookup code with
    | some mk => exact .inl (encode_decodeCommand_of_lookup_some hrow m a p)
    | none => exact .inr ⟨code, m, a, p, rfl, decodeCommand_of_lookup_none hrow m a p⟩
  | reset => cases h

/-- Operations on CRC are asked for by their requests only. -/
theorem encode_of_decode_of_usesCrc {e : HostEvent} {i : Instr} (h : decode e = .op i) (huse : i.usesCrc) :
    encode i = e := by
  rcases encode_eq_or_command_of_decode h with henc | ⟨code, m, a, p, _, rfl⟩
  · exact henc
  · cases m <;> simp [Instr.usesCrc, encodeInMode] at huse

/-- Settles O48: of the operations that use CRC, CRC_READ leaves it. -/
theorem onlyCrcOperationsAndResetChangeCrc : Obligations.OnlyCrcOperationsAndResetChangeCrc := by
  intro s t hstep hne
  rcases step_cases hstep with ⟨_, rfl⟩ | ⟨e, rest, hp, ⟨i, hd, hexec⟩ | ⟨_, rfl⟩ | ⟨hd, _⟩⟩
  · exact absurd rfl hne
  · have huse : i.usesCrc := by_contra fun hno => hne (crc_of_exec (s := s.withPending rest) hno hexec)
    refine ⟨e, rest, hp, .inr ?_⟩
    rw [← encode_of_decode_of_usesCrc hd huse]
    rcases huse with rfl | ⟨d, rfl⟩ | rfl | ⟨q, rfl⟩
    · exact .inl rfl
    · exact .inr (.inl ⟨d, rfl⟩)
    · cases hexec
      exact absurd rfl hne
    · exact .inr (.inr ⟨q, rfl⟩)
  · exact absurd rfl hne
  · exact ⟨e, rest, hp, .inl (eq_reset_of_decode hd)⟩

/-- An operation that changes CID is an MD encode that succeeds. -/
theorem md_encode_of_cid_ne {i : Instr} {s t : State} (hexec : exec i s = .next t) (hne : t.cid ≠ s.cid) :
    ∃ a cmd p, (i = .encMd a cmd p ∨ encode i = .command cmd .md a p) ∧ a.toNat ≤ 40 ∧ p.length ≤ Config.maxPayload ∧
      t.cid = nextCid s.cid := by
  have hsuccess : ∀ {a cmd p}, encodeMd a cmd p s = .next t →
      a.toNat ≤ 40 ∧ p.length ≤ Config.maxPayload ∧ t.cid = nextCid s.cid := by
    intro a cmd p h
    rcases encodeMd_cases a cmd p s with ⟨_, hend⟩ | ⟨_, _, hend⟩ | ⟨_, _, ha, hp, hend⟩ <;>
      obtain rfl := Host.Outcome.next.inj (hend.symm.trans h)
    · exact absurd rfl hne
    · exact absurd rfl hne
    · exact ⟨ha, hp, rfl⟩
  rcases (by_contra fun hno => hne (cid_of_exec hno hexec) : i.usesCid) with rfl | ⟨a, cmd, p, rfl⟩ | ⟨cmd, a, p, henc⟩
  · cases hexec
    exact absurd rfl hne
  · exact ⟨a, cmd, p, .inl rfl, hsuccess hexec⟩
  · exact ⟨a, cmd, p, .inr henc, hsuccess ((exec_of_encode_command henc s).symm.trans hexec)⟩

/-- The events that ask for an MD encode: its request, and a frame command in MD mode (log 5). -/
theorem event_of_md_encode {e : HostEvent} {i : Instr} {a cmd : Byte} {p : Seq} (hd : decode e = .op i)
    (hi : i = .encMd a cmd p ∨ encode i = .command cmd .md a p) :
    e = .request 0x20#8 [.u8 a, .u8 cmd, .seq p] ∨ e = .command cmd .md a p := by
  rcases encode_eq_or_command_of_decode hd with rfl | ⟨code, m, a', p', rfl, rfl⟩
  · exact hi.imp (congrArg encode) id
  · cases m <;> rcases hi with hi | hi <;> cases hi
    exact .inr rfl

/-- Settles O49: among the events, reset and those of an MD encode. -/
theorem onlySuccessfulMdEncodesAndResetChangeCid : Obligations.OnlySuccessfulMdEncodesAndResetChangeCid := by
  intro s t hstep hne
  rcases step_cases hstep with ⟨_, rfl⟩ | ⟨e, rest, hp, ⟨i, hd, hexec⟩ | ⟨_, rfl⟩ | ⟨hd, _⟩⟩
  · exact absurd rfl hne
  · obtain ⟨a, cmd, p, hi, hvalid⟩ := md_encode_of_cid_ne (s := s.withPending rest) hexec hne
    exact ⟨e, rest, hp, .inr ⟨a, cmd, p, event_of_md_encode hd hi, hvalid⟩⟩
  · exact absurd rfl hne
  · exact ⟨e, rest, hp, .inl (eq_reset_of_decode hd)⟩

/-! ## The invariant -/

/-- R87: a record that DEC_MD returns is genuine. -/
theorem genuine_of_decodeMd {f : Seq} {r : Frame} (h : decodeMd f = .ok r) : r.genuine = true := by
  obtain ⟨pre, hpre, haddr, -, hp, hcrc⟩ := frameMd_of_decodeMd h
  simp [Frame.genuine, hpre, haddr, ← hcrc, (lenOk_iff _).mpr hp]

theorem genuine_of_decodeP2p {f : Seq} {r : Frame} (h : decodeP2p f = .ok r) : r.genuine = true := by
  obtain ⟨hpre, -, hp, hcrc⟩ := body_of_decodeP2p h
  simp [Frame.genuine, hpre, ← hcrc, (lenOk_iff _).mpr hp]

/-- Frame records come from the decoders only. -/
theorem genuine_of_mayReturn {i : Instr} {v : Option Value} (h : i.mayReturn v) : (Result.ok v).genuine = true := by
  cases i with
  | crcInit | crcUpdate => cases h; rfl
  | preSel => obtain ⟨q, rfl, _⟩ := h; rfl
  | decMd => obtain ⟨r, rfl, hr⟩ := h; exact genuine_of_decodeMd hr
  | decP2p => obtain ⟨r, rfl, hr⟩ := h; exact genuine_of_decodeP2p hr
  | _ => obtain ⟨_, rfl⟩ := h; rfl

/-- Every operation keeps the invariant: a changed CID is a successor, and the new result is genuine. -/
theorem inv_of_exec {i : Instr} {s t : State} (hinv : Inv s) (hexec : exec i s = .next t) : Inv t := by
  obtain ⟨hcid, hgen⟩ := hinv
  constructor
  · by_cases hsame : t.cid = s.cid
    · rwa [hsame]
    · obtain ⟨_, _, _, _, _, _, hnext⟩ := md_encode_of_cid_ne hexec hsame
      rw [hnext]
      exact nextCid_ne_zero s.cid
  · obtain ⟨t', r, hexec', hres, -, hend⟩ := exec_answers i s
    obtain rfl : t = t' := Host.Outcome.next.inj (hexec.symm.trans hexec')
    have hr : r.genuine = true := by
      rcases hend with ⟨v, rfl, hv⟩ | ⟨e, rfl, _⟩
      · exact genuine_of_mayReturn hv
      · rfl
    rw [hres]
    exact List.forall_mem_append.mpr ⟨hgen, by simpa using hr⟩

/-- Settles O45: an idle step changes nothing, an error result is genuine, and reset writes the first id. -/
theorem stepKeepsTheInvariant : Obligations.StepKeepsTheInvariant := by
  intro s t hinv hstep
  obtain ⟨hcid, hgen⟩ := hinv
  rcases step_cases hstep with ⟨_, rfl⟩ | ⟨e, rest, _, ⟨i, _, hexec⟩ | ⟨_, rfl⟩ | ⟨_, rfl⟩⟩
  · exact ⟨hcid, hgen⟩
  · exact inv_of_exec (s := s.withPending rest) ⟨hcid, hgen⟩ hexec
  · exact ⟨hcid, List.forall_mem_append.mpr ⟨hgen, by simp [Result.genuine]⟩⟩
  · exact ⟨(by decide : firstCid ≠ 0x0000#16), hgen⟩

/-- Settles O46: the first id is 1, and nothing has been received. -/
theorem resetMeetsTheInvariant : Obligations.ResetMeetsTheInvariant :=
  ⟨(by decide : firstCid ≠ 0x0000#16), nofun⟩

/-- Settles O47: the frame carries CID, which the invariant holds off 0, and NEXT never gives 0. -/
theorem mdFrameIdIsNeverZero : Obligations.MdFrameIdIsNeverZero := by
  intro s a cmd p hinv ha hp
  obtain ⟨hcid, _⟩ := hinv
  obtain ⟨pre, _, hexec⟩ := exec_encMd_of_valid ha hp cmd s
  have hid := fromBe16_frameMd pre a cmd s.cid p
  exact ⟨_, frameMd pre a cmd s.cid p, hexec, rfl, hid, hid.symm ▸ hcid, nextCid_ne_zero s.cid⟩

/-! ## Successive frames -/

/-- R17 as arithmetic: 0xFFFF goes to 1, as 0 would. -/
theorem nextCid_toNat (v : Word) : (nextCid v).toNat = v.toNat % 65535 + 1 := by
  by_cases h : v = 0xFFFF#16
  · subst h
    decide
  · have hlt : v.toNat ≠ 65535 := fun heq => h (BitVec.eq_of_toNat_eq heq)
    have := v.isLt
    rw [nextCid_toNat_of_ne h]
    omega

theorem iterate_nextCid_toNat (k : Nat) : (nextCid^[k] 0x0001#16).toNat = k % 65535 + 1 := by
  induction k with
  | zero => rfl
  | succ k ih =>
    rw [Function.iterate_succ_apply', nextCid_toNat, ih]
    omega

/-- Valid ENC_MD operations one after another: each adds a frame, the frames carry successive ids, and CID ends behind the
last of them. -/
theorem execAll_encMd_of_valid (ops : List (Byte × Byte × Seq)) (s : State)
    (hvalid : ∀ o ∈ ops, o.1.toNat ≤ 40 ∧ o.2.2.length ≤ Config.maxPayload) :
    ∃ fs : List Seq, fs.map (fromBe16 · 6) = List.iterate nextCid s.cid ops.length ∧
      execAll (ops.map fun o => Instr.encMd o.1 o.2.1 o.2.2) s = .next { s with
        cid := nextCid^[ops.length] s.cid
        results := s.results ++ fs.map fun f => .ok (some (.seq f)) } := by
  induction ops generalizing s with
  | nil => exact ⟨[], rfl, by simp [execAll_nil]⟩
  | cons o ops ih =>
    obtain ⟨⟨ha, hp⟩, hrest⟩ := List.forall_mem_cons.mp hvalid
    obtain ⟨pre, _, hexec⟩ := exec_encMd_of_valid ha hp o.2.1 s
    obtain ⟨fs, hids, hall⟩ :=
      ih ((s.setCid (nextCid s.cid)).receive (.ok (some (.seq (frameMd pre o.1 o.2.1 s.cid o.2.2))))) hrest
    refine ⟨frameMd pre o.1 o.2.1 s.cid o.2.2 :: fs, ?_, ?_⟩
    · rw [List.map_cons, fromBe16_frameMd, hids]
      rfl
    · rw [List.map_cons, execAll_cons_of_next hexec, hall]
      simp

/-- Settles O25: the j-th frame is the j-th that `execAll_encMd_of_valid` adds. -/
theorem successiveFramesCarrySuccessiveIds : Obligations.SuccessiveFramesCarrySuccessiveIds := by
  refine ⟨iterate_nextCid_toNat, fun ops s hvalid => ?_⟩
  obtain ⟨fs, hids, hall⟩ := execAll_encMd_of_valid ops s hvalid
  have hlen : fs.length = ops.length := by simpa using congrArg List.length hids
  refine ⟨_, hall, rfl, rfl, by simp [hlen], fun j hj => ⟨fs[j], ?_, ?_⟩⟩
  · simp [hlen, hj]
  · have := congrArg (·[j]?) hids
    simpa [hlen, hj] using this

/-! ## The example lines of R47 -/

/-- Settles O56: the four lines by evaluation. -/
theorem notationReadsTheExamples : Obligations.NotationReadsTheExamples :=
  ⟨by decide +kernel, by decide +kernel, by decide +kernel, by decide +kernel⟩

end Sys2Proof.Machine
end
